-- ==== Sys2Proof/Word.lean ====
section
/-! DEFINITION. The word types of the block (00_scope R9, R10, R12): bytes, 16-bit pixel words, 32-bit registers. -/

namespace Sys2Proof

/-- A byte is 8 bits (R12). -/
abbrev Byte := BitVec 8

/-- A pixel word is 16 bits (R14). -/
abbrev Half := BitVec 16

/-- A register, an address and a command word are 32 bits (R9). -/
abbrev Word := BitVec 32

end Sys2Proof
end

