-- ==== Sys2Proof/Config.lean ====
section
/-! DEFINITION. What an instance of the block fixes: the constants of 00_scope R7, the open parameters of R8 and the free
values (constants with no body, about which nothing can be proved). -/

namespace Sys2Proof

namespace Config

/-- `TILE_W` (R7). -/
def tileW : Nat := 86

/-- `TILE_H` (R7). -/
def tileH : Nat := 48

/-- `TILE_PIXELS` = 86 × 48 (R7). -/
def tilePixels : Nat := 4128

/-- `TILE_BYTES` = 4,128 × 2 (R7). -/
def tileBytes : Nat := 8256

/-- The size of the HOST address space, `AW` = 32 (R9, R36). -/
def hostBytes : Nat := 4294967296

end Config

/-- `GRAY2_RAMP[0..3]`, four 16-bit words named as the source names them: "black, dark, mid, white-ish" (R8, R152). -/
structure Ramp where
  black : Half
  dark : Half
  mid : Half
  whitish : Half
  deriving DecidableEq, Repr, Inhabited

/-- The named parameters that R8 makes arguments of the model's configuration (R21): `XOROUT`, `POLY_R`, `GRAY2_RAMP`, `GA_LOW`
(the fifth, `SINK_ACCEPT`, is a draw, log 8). `gaLow1` and `gaLow2` hold the function `GA_LOW(d, l, a)` for d = 1 and d = 2, entry `l * 2^d + a`,
true meaning 0xFFFF and false 0x0000: its constraint "value in {0x0000, 0xFFFF}" holds by type. -/
structure Params where
  xorOut : Word
  polyR : Word
  ramp : Ramp
  gaLow1 : Vector Bool 4
  gaLow2 : Vector Bool 16
  deriving DecidableEq, Repr

namespace Config

/-- `XOROUT` as 90_conflicts C1 resolves it (log 9). -/
def xorOut : Word := 0xFFFFFFFF

/-- `POLY_R`, the reflected polynomial, at the value R101 and D5 settle (PRESUMED by the spec, G1; log 19). -/
def polyR : Word := 0xEDB88320

/-- FREE VALUE (log 10): the source gives no numbers for the 2-bit grey ramp (N5). -/
opaque gray2Ramp : Ramp

/-- FREE VALUE (log 11): the source gives no threshold for GA1 (N6). -/
opaque gaLow1 : Vector Bool 4

/-- FREE VALUE (log 11): the source gives no threshold for GA2 (N6). -/
opaque gaLow2 : Vector Bool 16

/-- FREE VALUE (log 8): `SINK_ACCEPT`, the sink's answer to the draw numbered by the first argument, a write request of as
many bytes as the second says (R106). The one place that uses it cuts it to at most that many bytes. -/
opaque sinkAccept : Nat → Nat → Nat

/-- FREE VALUE (log 5): what a host read of an operand register returns before the host has written it (R40, U7). -/
opaque unspecifiedWord : Nat → Word

/-- FREE VALUE (log 6): what a host read of a TILE byte returns while TILE_VALID = 0 (R35, U11). -/
opaque unspecifiedByte : Nat → Byte

end Config

/-- The parameters of the machine right after power-on: `XOROUT` as C1 resolves it, `POLY_R` as D5 settles it, the other two
free. -/
def Params.initial : Params :=
  { xorOut := Config.xorOut, polyR := Config.polyR, ramp := Config.gray2Ramp, gaLow1 := Config.gaLow1, gaLow2 := Config.gaLow2 }

/-- The reference values of R8, which the vectors of 95_test_vectors.md use. No definition of the machine reads them: a test
puts them into a state's `cfg`. -/
def Params.reference : Params :=
  { xorOut := 0xFFFFFFFF
    polyR := 0xEDB88320
    ramp := { black := 0x0000, dark := 0x52AA, mid := 0xAD55, whitish := 0xFFFF }
    gaLow1 := #v[false, false, false, true]
    gaLow2 := #v[false, false, false, false, false, false, false, false,
                 false, false, true, true, false, false, true, true] }

end Sys2Proof
end

