-- ==== Sys2Proof/Syntax.lean ====
section
/-! DEFINITION. The operations of the block, one constructor for each of the 19 rows of spec/opcode_table.json, and the
words the host uses to reach them: registers, ports, formats and host accesses. -/

namespace Sys2Proof

/-- The twelve supported pixel formats (30_encoding R85, 41_pixel_transcoder R140). -/
inductive Format where
  | rgb8 | rgb16 | rgba8 | rgba16
  | g1 | g2 | g4 | g8
  | ga1 | ga2 | ga4 | ga8
  deriving DecidableEq, Repr

/-- One constructor per row of the opcode table. No operation has an operand field (R80, R82): operands come from the
fixed registers. -/
inductive Instr where
  /-- BLK.RESET (R104) -/
  | blkReset
  /-- CSA.WRITE (R105) -/
  | csaWrite
  /-- CSA.WRTILE (R111) -/
  | csaWrtile
  /-- CSA.EMIT (R113) -/
  | csaEmit
  /-- PXT.LOADRAW (R137) -/
  | pxtLoadraw
  /-- PXT.CONVERT (R138), the command as such: it looks its format up in IMG_FMT -/
  | pxtConvert
  /-- CSA.READ (R117), a host read of register 2 -/
  | csaRead
  /-- PXT.CONVERT.RGB8 (R145): PXT.CONVERT with IMG_FMT = 0x00000008 -/
  | pxtConvertRgb8
  /-- PXT.CONVERT.RGB16 (R147): PXT.CONVERT with IMG_FMT = 0x00000010 -/
  | pxtConvertRgb16
  /-- PXT.CONVERT.RGBA8 (R146): PXT.CONVERT with IMG_FMT = 0x00000108 -/
  | pxtConvertRgba8
  /-- PXT.CONVERT.RGBA16 (R148): PXT.CONVERT with IMG_FMT = 0x00000110 -/
  | pxtConvertRgba16
  /-- PXT.CONVERT.G1 (R151): PXT.CONVERT with IMG_FMT = 0x00000201 -/
  | pxtConvertG1
  /-- PXT.CONVERT.G2 (R152): PXT.CONVERT with IMG_FMT = 0x00000202 -/
  | pxtConvertG2
  /-- PXT.CONVERT.G4 (R153): PXT.CONVERT with IMG_FMT = 0x00000204 -/
  | pxtConvertG4
  /-- PXT.CONVERT.G8 (R154): PXT.CONVERT with IMG_FMT = 0x00000208 -/
  | pxtConvertG8
  /-- PXT.CONVERT.GA1 (R155): PXT.CONVERT with IMG_FMT = 0x00000301 -/
  | pxtConvertGa1
  /-- PXT.CONVERT.GA2 (R156): PXT.CONVERT with IMG_FMT = 0x00000302 -/
  | pxtConvertGa2
  /-- PXT.CONVERT.GA4 (R157): PXT.CONVERT with IMG_FMT = 0x00000304 -/
  | pxtConvertGa4
  /-- PXT.CONVERT.GA8 (R158): PXT.CONVERT with IMG_FMT = 0x00000308 -/
  | pxtConvertGa8
  deriving DecidableEq, Repr

/-- The instruction that the opcode table lists for PXT.CONVERT with a given format (R85, R87). -/
def Format.instr : Format → Instr
  | .rgb8 => .pxtConvertRgb8
  | .rgb16 => .pxtConvertRgb16
  | .rgba8 => .pxtConvertRgba8
  | .rgba16 => .pxtConvertRgba16
  | .g1 => .pxtConvertG1
  | .g2 => .pxtConvertG2
  | .g4 => .pxtConvertG4
  | .g8 => .pxtConvertG8
  | .ga1 => .pxtConvertGa1
  | .ga2 => .pxtConvertGa2
  | .ga4 => .pxtConvertGa4
  | .ga8 => .pxtConvertGa8

/-- The ten registers (10_state R24). -/
inductive Reg where
  | cmd | status | csum | wrAddr | wrLen | wrDone | srcAddr | imgW | imgH | imgFmt
  deriving DecidableEq, Repr

/-- The place a word of the opcode table stands in (the table's `format` and `written_to`): format C is written to CMD,
format F stands in IMG_FMT when PXT.CONVERT is issued, format REG is the number of the register the host reads. -/
inductive Port where
  | command | imageFormat | readSelect
  deriving DecidableEq, Repr

/-- A 32-bit word together with the place it stands in. Words of different places may be equal (CSA.WRITE and CSA.READ are
both 2), so the place is part of the encoding (log 2). -/
structure TableWord where
  port : Port
  word : Word
  deriving DecidableEq, Repr

/-- One access of the host: what a step of the machine consumes (R20, R91). -/
inductive Access where
  /-- `WR r, v`: the host writes `value` to the register numbered `reg`; a write to register 0 issues an operation. -/
  | write (reg : Nat) (value : Word)
  /-- `RD r`: the host reads the register numbered `reg`. -/
  | read (reg : Nat)
  /-- The host reads the TILE byte of an index (R35). -/
  | readTile (index : Nat)
  /-- The host changes a byte of its own memory between operations (R36, R222). -/
  | store (addr : Word) (value : Byte)
  /-- Hardware reset (R210). -/
  | hardReset
  deriving DecidableEq, Repr

end Sys2Proof
end

