-- ==== Sys2Proof/Decode.lean ====
section
/-! DEFINITION. From words to operations and back (30_encoding R80 to R90): total on every 32-bit word, rejecting by name;
after it the encoder, written from the same tables. -/

namespace Sys2Proof

/-- Why a word decodes to no operation. -/
inductive DecodeError where
  /-- Not one of the six command words of R81: reserved (R88, U4). Safe: a refusal. -/
  | reservedCommand (word : Word)
  /-- `IMG_FMT[31:16]` is not 0 (R89, U5). Safe: a refusal. -/
  | reservedFormatBits (word : Word)
  /-- `IMG_FMT[15:0]` is not one of the twelve values of R85: no operation row, an error of PXT.CONVERT (R90). -/
  | unsupportedFormat (word : Word)
  /-- The register number is not 2, so its read is a plain register read and no row of the table (R87). -/
  | notAnOperation (word : Word)
  deriving DecidableEq, Repr

/-- `IMG_FMT[7:0]`, bits per sample (R84). -/
def depthField (fmt : Word) : Byte := fmt.extractLsb' 0 8

/-- `IMG_FMT[15:8]`, the colour model tag (R84). -/
def modelField (fmt : Word) : Byte := fmt.extractLsb' 8 8

/-- `IMG_FMT[31:16]`, reserved, must be 0 (R84, R89). -/
def formatReserved (fmt : Word) : Half := fmt.extractLsb' 16 16

/-- The closed table of R140 and R85, keyed by (MODEL, DEPTH): 0 RGB, 1 RGBA, 2 GRAY, 3 GRAYA (R84). -/
def lookupFormat (model depth : Byte) : Option Format :=
  match model.toNat, depth.toNat with
  | 0, 8 => some .rgb8
  | 0, 16 => some .rgb16
  | 1, 8 => some .rgba8
  | 1, 16 => some .rgba16
  | 2, 1 => some .g1
  | 2, 2 => some .g2
  | 2, 4 => some .g4
  | 2, 8 => some .g8
  | 3, 1 => some .ga1
  | 3, 2 => some .ga2
  | 3, 4 => some .ga4
  | 3, 8 => some .ga8
  | _, _ => none

/-- The format that `IMG_FMT[15:0]` selects, if any (R85, R90). -/
def formatOf (fmt : Word) : Option Format := lookupFormat (modelField fmt) (depthField fmt)

/-- A format-C word (R80, R81, R88). -/
def decodeCommand (w : Word) : Except DecodeError Instr :=
  match w.toNat with
  | 0x01 => .ok .blkReset
  | 0x02 => .ok .csaWrite
  | 0x03 => .ok .csaWrtile
  | 0x04 => .ok .csaEmit
  | 0x10 => .ok .pxtLoadraw
  | 0x11 => .ok .pxtConvert
  | _ => .error (.reservedCommand w)

/-- A format-F word (R84, R85, R89, R90). -/
def decodeFormat (w : Word) : Except DecodeError Instr :=
  if formatReserved w ≠ 0 then .error (.reservedFormatBits w)
  else match formatOf w with
    | some f => .ok f.instr
    | none => .error (.unsupportedFormat w)

/-- A register number that the host reads: register 2 is CSA.READ (R87, R92, R117). -/
def decodeRead (w : Word) : Except DecodeError Instr :=
  if w = 2 then .ok .csaRead else .error (.notAnOperation w)

/-- The decoder: the operation that a word stands for in the place it stands in. -/
def decode (t : TableWord) : Except DecodeError Instr :=
  match t.port with
  | .command => decodeCommand t.word
  | .imageFormat => decodeFormat t.word
  | .readSelect => decodeRead t.word

/-- The decoder of R87 for a word written to CMD, in two levels: look the word up among the format-C rows; for PXT.CONVERT
look `IMG_FMT` (given where the host has written it) up among the format-F rows. Where that finds no row the operation is
the plain PXT.CONVERT, whose meaning says which error or refusal follows (R89, R90). -/
def decodeIssue (cmd : Word) (fmt : Option Word) : Except DecodeError Instr :=
  match decodeCommand cmd, fmt with
  | .ok .pxtConvert, some f =>
    match decodeFormat f with
    | .ok i => .ok i
    | .error _ => .ok .pxtConvert
  | r, _ => r

/-- Where a word given without its place is taken to stand: a command word if it is one, else IMG_FMT (log 2). -/
def portOfWord (w : Word) : Port :=
  match decodeCommand w with
  | .ok _ => .command
  | .error _ =>
    match decodeFormat w with
    | .ok _ => .imageFormat
    | .error _ => .command

/-- The operation read from an opcode-table word given by its number of bits and its bits, bit 0 least significant. Every
word of the block is 32 bits wide; bits above `nbits` are 0. -/
def decodeTableWord (nbits w : Nat) : Option Instr :=
  if nbits ≤ 32 ∧ w < 2 ^ nbits then
    let word : Word := BitVec.ofNat 32 w
    match decode { port := portOfWord word, word := word } with
    | .ok i => some i
    | .error _ => none
  else none

/-- The `IMG_FMT` value of a format (R85). -/
def Format.word : Format → Word
  | .rgb8 => 0x00000008
  | .rgb16 => 0x00000010
  | .rgba8 => 0x00000108
  | .rgba16 => 0x00000110
  | .g1 => 0x00000201
  | .g2 => 0x00000202
  | .g4 => 0x00000204
  | .g8 => 0x00000208
  | .ga1 => 0x00000301
  | .ga2 => 0x00000302
  | .ga4 => 0x00000304
  | .ga8 => 0x00000308

/-- The encoder: the word of an operation and the place it stands in (R81, R85, R92). -/
def encode : Instr → TableWord
  | .blkReset => { port := .command, word := 0x00000001 }
  | .csaWrite => { port := .command, word := 0x00000002 }
  | .csaWrtile => { port := .command, word := 0x00000003 }
  | .csaEmit => { port := .command, word := 0x00000004 }
  | .pxtLoadraw => { port := .command, word := 0x00000010 }
  | .pxtConvert => { port := .command, word := 0x00000011 }
  | .csaRead => { port := .readSelect, word := 0x00000002 }
  | .pxtConvertRgb8 => { port := .imageFormat, word := Format.word .rgb8 }
  | .pxtConvertRgb16 => { port := .imageFormat, word := Format.word .rgb16 }
  | .pxtConvertRgba8 => { port := .imageFormat, word := Format.word .rgba8 }
  | .pxtConvertRgba16 => { port := .imageFormat, word := Format.word .rgba16 }
  | .pxtConvertG1 => { port := .imageFormat, word := Format.word .g1 }
  | .pxtConvertG2 => { port := .imageFormat, word := Format.word .g2 }
  | .pxtConvertG4 => { port := .imageFormat, word := Format.word .g4 }
  | .pxtConvertG8 => { port := .imageFormat, word := Format.word .g8 }
  | .pxtConvertGa1 => { port := .imageFormat, word := Format.word .ga1 }
  | .pxtConvertGa2 => { port := .imageFormat, word := Format.word .ga2 }
  | .pxtConvertGa4 => { port := .imageFormat, word := Format.word .ga4 }
  | .pxtConvertGa8 => { port := .imageFormat, word := Format.word .ga8 }

/-- The number of a register (10_state R24). -/
def Reg.number : Reg → Nat
  | .cmd => 0
  | .status => 1
  | .csum => 2
  | .wrAddr => 3
  | .wrLen => 4
  | .wrDone => 5
  | .srcAddr => 6
  | .imgW => 7
  | .imgH => 8
  | .imgFmt => 9

/-- The register of a number, 0 to 9 (R24); no other number names one. -/
def regOfNumber : Nat → Option Reg
  | 0 => some .cmd
  | 1 => some .status
  | 2 => some .csum
  | 3 => some .wrAddr
  | 4 => some .wrLen
  | 5 => some .wrDone
  | 6 => some .srcAddr
  | 7 => some .imgW
  | 8 => some .imgH
  | 9 => some .imgFmt
  | _ => none

end Sys2Proof
end

