-- ==== Sys2Proof/Machine/State.lean ====
section
/-! DEFINITION. The state of the block as plain data (10_state), the state right after reset (R40), and the reasons a step
can stop. -/

namespace Sys2Proof.Machine

/-- A byte-addressed memory: (address, byte) pairs, addresses strictly rising, no entry equal to what an unlisted address
reads as (`Memory.wfIn` in Machine/Ops.lean). -/
abbrev Memory := List Host.Cell

/-- `STATUS.ERR` (R30): no error, or one of the three errors of R180; codes 4 to 255 are never produced. -/
inductive ErrCode where
  /-- 0, "no error" -/
  | noError
  /-- 1, InvalidDimensions (R181) -/
  | invalidDimensions
  /-- 2, UnsupportedFormat (R182) -/
  | unsupportedFormat
  /-- 3, IoWriteError (R183) -/
  | ioWriteError
  deriving DecidableEq, Repr

/-- The fields of `STATUS` (R27 to R30). Its reserved bits read as 0 and have no storage. -/
structure Status where
  ok : Bool
  fail : Bool
  tileValid : Bool
  err : ErrCode
  deriving DecidableEq, Repr

/-- An operand register: its value, and whether the host has written it since reset (R31, R33, R34, R40). -/
structure OperandReg where
  value : Word
  written : Bool
  deriving DecidableEq, Repr

/-- An operand register after reset: unspecified (R40). The stored 0 is the model's own (log 4). -/
def OperandReg.unwritten : OperandReg := { value := 0, written := false }

/-- Everything the spec gives the block (10_state), the host's memory and the sink's stream, and the model's own fields. -/
structure State where
  /-- `CRC`, the raw running register (R25). -/
  crc : Word
  /-- `STATUS` (R27 to R30). -/
  status : Status
  /-- `WR_DONE` (R32). -/
  wrDone : Word
  /-- `WR_ADDR` (R31). -/
  wrAddr : OperandReg
  /-- `WR_LEN` (R31). -/
  wrLen : OperandReg
  /-- `SRC_ADDR` (R33). -/
  srcAddr : OperandReg
  /-- `IMG_W` (R34). -/
  imgW : OperandReg
  /-- `IMG_H` (R34). -/
  imgH : OperandReg
  /-- `IMG_FMT` (R34, R84). -/
  imgFmt : OperandReg
  /-- `TILE`, 8,256 bytes (R35). -/
  tile : Memory
  /-- `HOST`, 2^32 bytes (R36). -/
  host : Memory
  /-- `OUT`, the bytes the sink has accepted since reset, in order (R37). -/
  out : List Byte
  /-- MODEL's own: the parameters of R8; no step changes them (log 12). -/
  cfg : Params
  /-- MODEL's own: the host accesses still to come, first one first (log 1). -/
  pending : List Access
  /-- MODEL's own: what the latest host read returned (log 14). -/
  readData : Word
  /-- MODEL's own: the sink's answers to its coming calls; after the last one the answers are free values (log 8). -/
  sinkAnswers : List Nat
  /-- MODEL's own: counts the draws of free values (log 16). -/
  draws : Nat
  deriving DecidableEq, Repr

/-- `STATUS` after reset: 0x00000000 (R40). -/
def Status.reset : Status := { ok := false, fail := false, tileValid := false, err := .noError }

/-- The raw register's initial value, `CRC_INIT` (R7, R25). -/
def crcInit : Word := 0xFFFFFFFF

/-- The machine right after reset (R40), with nothing placed in HOST memory and no access pending. -/
def State.reset : State :=
  { crc := crcInit
    status := Status.reset
    wrDone := 0
    wrAddr := OperandReg.unwritten
    wrLen := OperandReg.unwritten
    srcAddr := OperandReg.unwritten
    imgW := OperandReg.unwritten
    imgH := OperandReg.unwritten
    imgFmt := OperandReg.unwritten
    tile := []
    host := []
    out := []
    cfg := Params.initial
    pending := []
    readData := 0
    sinkAnswers := []
    draws := 0 }

/-- Why the machine stops at an access to a place that does not exist. -/
inductive Fault where
  /-- Raised by a host access to a register number above 9: R24 gives the block ten registers, numbered 0 to 9. Safe. -/
  | noSuchRegister (number : Nat)
  /-- Raised by a host read of a TILE index above 8,255: R35 gives TILE exactly 8,256 bytes. Safe. -/
  | noSuchTileByte (index : Nat)
  deriving DecidableEq, Repr

/-- Why a request has no next state (00_scope R15, 60_exceptions R186). Each is safe: it errs toward unprovable. -/
inductive Refusal where
  /-- Answered by an arm of exec whose operation has no meaning yet. Safe. -/
  | notModelled (mnemonic : String)
  /-- Raised by a write to CMD of a word that is not one of the six command words (R88, U4). Safe. -/
  | notDecoded (e : DecodeError)
  /-- Raised by PXT.CONVERT while `IMG_FMT[31:16]` is not 0 (R89, U5). Safe. -/
  | reservedFormatBits (fmt : Word)
  /-- Raised by CSA.WRITE, PXT.LOADRAW and PXT.CONVERT in every format when an operand register they consume has not been
written by the host since reset: "Refused when ..." (R105, R137, R138; R31, R33, R34, R40, U7, D12), and R15 and R186 allow no
next state there. Safe. -/
  | operandNotWritten (r : Reg)
  /-- Raised by an operation whose operand range would pass the top of the HOST space (R31, R33, U6). Safe. -/
  | operandRangeWraps
  /-- Raised by CSA.WRTILE while TILE_VALID = 0 (R111, U8). Safe. -/
  | tileNotValid
  deriving DecidableEq, Repr

end Sys2Proof.Machine
end

