-- ==== Sys2Proof/Machine/Crc.lean ====
section
/-! DEFINITION. CRC arithmetic of the Checksum Accumulator (40_checksum_accumulator R101, R102), for any polynomial: `POLY_R` is
an argument of the configuration (00_scope R8), `poly` here. -/

namespace Sys2Proof.Machine

/-- One of the 8 rounds of R101: shift right, and xor the polynomial in when the bit shifted out was 1. -/
def crcRound (poly r : Word) : Word := if r.getLsbD 0 then (r >>> 1) ^^^ poly else r >>> 1

/-- n rounds of R101, one after the other. -/
def crcRounds (poly : Word) : Nat → Word → Word
  | 0, r => r
  | n + 1, r => crcRounds poly n (crcRound poly r)

/-- `crc_step(R, b)`: the byte enters at bits 7:0, then 8 rounds (R101, R69). -/
def crcStep (poly r : Word) (b : Byte) : Word := crcRounds poly 8 (r ^^^ b.setWidth 32)

/-- `crc_update(R, s)`: the left fold of `crc_step`, index 0 first (R102). -/
def crcUpdate (poly r : Word) (s : List Byte) : Word := s.foldl (crcStep poly) r

end Sys2Proof.Machine
end

