-- ==== Sys2Proof/Machine/Flags.lean ====
section
/-! DEFINITION. The STATUS register: its codes, its 32-bit view, and how an operation reports success (10_state R27 to R30,
60_exceptions R180). -/

namespace Sys2Proof.Machine

/-- The code of an error in `STATUS.ERR` (R180). -/
def ErrCode.code : ErrCode → Byte
  | .noError => 0
  | .invalidDimensions => 1
  | .unsupportedFormat => 2
  | .ioWriteError => 3

/-- What a read of STATUS returns: OK bit 0, FAIL bit 1, TILE_VALID bit 2, ERR bits 15:8, every other bit 0 (R27 to R30). -/
def Status.toWord (st : Status) : Word :=
  (0 : BitVec 16) ++ st.err.code ++ (0 : BitVec 5) ++ BitVec.ofBool st.tileValid ++ BitVec.ofBool st.fail
    ++ BitVec.ofBool st.ok

/-- The report of success: `STATUS.OK <- 1 ; STATUS.ERR <- 0` (R15). -/
def Status.succeed (st : Status) : Status := { st with ok := true, err := .noError }

/-- The report of an error: `STATUS.OK <- 0 ; STATUS.ERR <- code(E)` (R190). -/
def Status.raise (e : ErrCode) (st : Status) : Status := { st with ok := false, err := e }

/-- `STATUS.TILE_VALID <- v` (R29). -/
def Status.withTileValid (v : Bool) (st : Status) : Status := { st with tileValid := v }

/-- `STATUS.FAIL <- 1` (R28, R107). -/
def Status.withFail (st : Status) : Status := { st with fail := true }

end Sys2Proof.Machine
end

