-- ==== Sys2Proof/Machine/Operands.lean ====
section
/-! DEFINITION. Operand forms: byte orders (00_scope R12), samples of a decoded image (20_memory R56, R58), sizes (R57) and
the tile raster (R55). -/

namespace Sys2Proof.Machine

/-- `le16(v)` = `[v[7:0], v[15:8]]` (R12). -/
def le16 (v : Half) : List Byte := [v.extractLsb' 0 8, v.extractLsb' 8 8]

/-- `le32(v)` = `[v[7:0], v[15:8], v[23:16], v[31:24]]` (R12). -/
def le32 (v : Word) : List Byte := [v.extractLsb' 0 8, v.extractLsb' 8 8, v.extractLsb' 16 8, v.extractLsb' 24 8]

/-- `be16(b0, b1)` = `(b0 << 8) | b1` (R12, R58). -/
def be16 (b0 b1 : Byte) : Nat := (b0.toNat <<< 8) ||| b1.toNat

/-- Channels per pixel (R56, R140). -/
def channelsOf : Format → Nat
  | .rgb8 | .rgb16 => 3
  | .rgba8 | .rgba16 => 4
  | .g1 | .g2 | .g4 | .g8 => 1
  | .ga1 | .ga2 | .ga4 | .ga8 => 2

/-- Bits per sample (R85, R140). -/
def depthOf : Format → Nat
  | .g1 | .ga1 => 1
  | .g2 | .ga2 => 2
  | .g4 | .ga4 => 4
  | .rgb8 | .rgba8 | .g8 | .ga8 => 8
  | .rgb16 | .rgba16 => 16

/-- `SRC_BYTES = 4128 * bpp / 8` (R57). -/
def srcBytesOf (f : Format) : Nat := Config.tilePixels * (channelsOf f * depthOf f) / 8

/-- `sample(p, k)` of R56: channel k of pixel p in a flat buffer of c channels of d bits, `src i` being `SRC[i]`. -/
def sample (src : Nat → Byte) (c d p k : Nat) : Nat :=
  if d = 16 then be16 (src (2 * (p * c + k))) (src (2 * (p * c + k) + 1))
  else if d = 8 then (src (p * c + k)).toNat
  else ((src ((p * (c * d) + k * d) / 8)).toNat >>> (8 - d - (p * (c * d) + k * d) % 8)) &&& (2 ^ d - 1)

/-- The tile's bytes from its pixel words: pixel p at bytes 2p (low) and 2p + 1 (high), row-major, no padding (R55, R141). -/
def rasterBytes (pixel : Nat → Half) : List Byte :=
  (List.range Config.tilePixels).flatMap fun p => le16 (pixel p)

end Sys2Proof.Machine
end

