-- ==== Sys2Proof/Machine/Pixel.lean ====
section
/-! DEFINITION. The pixel arithmetic of the Pixel Transcoder (41_pixel_transcoder R131 to R135, R145 to R158). Every quantity is
an unsigned integer and every product is exact (R11, R134); only `pack565` narrows. -/

namespace Sys2Proof.Machine

/-- `pack565(r, g, b)` (00_scope R14, 30_encoding R86). -/
def pack565 (r g b : Nat) : Half :=
  BitVec.ofNat 16 (((r &&& 0x1F) <<< 11) ||| ((g &&& 0x3F) <<< 5) ||| (b &&& 0x1F))

/-- `premul8(c, a) = (c * a) div 255` (R131). -/
def premul8 (c a : Nat) : Nat := c * a / 255

/-- `premul16(c, a) = (c * a) div 65535` (R133). -/
def premul16 (c a : Nat) : Nat := c * a / 65535

/-- "`g |= g >> 5` after forming the 6-bit green" (R132). -/
def greenFill (g6 : Nat) : Nat := g6 ||| (g6 >>> 5)

/-- `rgb8_to_565` (R132). -/
def rgb8To565 (r g b : Nat) : Half := pack565 (r >>> 3) (greenFill (g >>> 2)) (b >>> 3)

/-- `rgb16_to_565` (R133). -/
def rgb16To565 (r g b : Nat) : Half := pack565 (r >>> 11) (greenFill (g >>> 10)) (b >>> 11)

/-- `grey_expand(v)` (R135). -/
def greyExpand (v : Nat) : Half :=
  pack565 (((v <<< 1) ||| (v >>> 3)) &&& 0x1F) (((v <<< 2) ||| (v >>> 2)) &&& 0x3F) (((v <<< 1) ||| (v >>> 3)) &&& 0x1F)

/-- One of the two words of the binary formats: 0xFFFF or 0x0000 (R151, R155). -/
def binaryWord (white : Bool) : Half := if white then 0xFFFF else 0x0000

/-- `GRAY2_RAMP[s]` (R152). A 2-bit sample is 0 to 3. -/
def rampWord (ramp : Ramp) : Nat → Half
  | 0 => ramp.black
  | 1 => ramp.dark
  | 2 => ramp.mid
  | _ => ramp.whitish

/-- `GA_LOW(1, l, a)` (R155, R8). -/
def gaLowOne (cfg : Params) (l a : Nat) : Half := binaryWord (cfg.gaLow1.toList.getD (l * 2 + a) false)

/-- `GA_LOW(2, l, a)` (R156, R8). -/
def gaLowTwo (cfg : Params) (l a : Nat) : Half := binaryWord (cfg.gaLow2.toList.getD (l * 4 + a) false)

/-- A 4-bit sample widened to 8 bits by replication, `(n << 4) | n` (R157). -/
def widen4 (n : Nat) : Nat := (n <<< 4) ||| n

/-- `pixel_RGB8(p)` (R145). -/
def pixelRgb8 (src : Nat → Byte) (p : Nat) : Half :=
  rgb8To565 (sample src 3 8 p 0) (sample src 3 8 p 1) (sample src 3 8 p 2)

/-- `pixel_RGBA8(p)` (R146). -/
def pixelRgba8 (src : Nat → Byte) (p : Nat) : Half :=
  rgb8To565 (premul8 (sample src 4 8 p 0) (sample src 4 8 p 3)) (premul8 (sample src 4 8 p 1) (sample src 4 8 p 3))
    (premul8 (sample src 4 8 p 2) (sample src 4 8 p 3))

/-- `pixel_RGB16(p)` (R147). -/
def pixelRgb16 (src : Nat → Byte) (p : Nat) : Half :=
  rgb16To565 (sample src 3 16 p 0) (sample src 3 16 p 1) (sample src 3 16 p 2)

/-- `pixel_RGBA16(p)` (R148). -/
def pixelRgba16 (src : Nat → Byte) (p : Nat) : Half :=
  rgb16To565 (premul16 (sample src 4 16 p 0) (sample src 4 16 p 3)) (premul16 (sample src 4 16 p 1) (sample src 4 16 p 3))
    (premul16 (sample src 4 16 p 2) (sample src 4 16 p 3))

/-- `pixel_G1(p)` (R151). -/
def pixelG1 (src : Nat → Byte) (p : Nat) : Half := binaryWord (decide (sample src 1 1 p 0 = 1))

/-- `pixel_G2(p)` (R152). -/
def pixelG2 (cfg : Params) (src : Nat → Byte) (p : Nat) : Half := rampWord cfg.ramp (sample src 1 2 p 0)

/-- `pixel_G4(p)` (R153). -/
def pixelG4 (src : Nat → Byte) (p : Nat) : Half := greyExpand (sample src 1 4 p 0)

/-- `pixel_G8(p)`, the quirk: the same function as G4, applied to all 8 bits (R154). -/
def pixelG8 (src : Nat → Byte) (p : Nat) : Half := greyExpand (sample src 1 8 p 0)

/-- `pixel_GA1(p)` (R155). -/
def pixelGa1 (cfg : Params) (src : Nat → Byte) (p : Nat) : Half := gaLowOne cfg (sample src 2 1 p 0) (sample src 2 1 p 1)

/-- `pixel_GA2(p)` (R156). -/
def pixelGa2 (cfg : Params) (src : Nat → Byte) (p : Nat) : Half := gaLowTwo cfg (sample src 2 2 p 0) (sample src 2 2 p 1)

/-- A grey value packed as three equal 8-bit channels, `rgb8_to_565(y, y, y)` (R157, R158). -/
def greyTo565 (y : Nat) : Half := rgb8To565 y y y

/-- `pixel_GA4(p)` (R157). -/
def pixelGa4 (src : Nat → Byte) (p : Nat) : Half :=
  greyTo565 (premul8 (widen4 (sample src 2 4 p 0)) (widen4 (sample src 2 4 p 1)))

/-- `pixel_GA8(p)` (R158). -/
def pixelGa8 (src : Nat → Byte) (p : Nat) : Half := greyTo565 (premul8 (sample src 2 8 p 0) (sample src 2 8 p 1))

/-- `pixel_f(p)`: the pixel rule a format selects (R138, R140). -/
def pixelOf (f : Format) (cfg : Params) (src : Nat → Byte) (p : Nat) : Half :=
  match f with
  | .rgb8 => pixelRgb8 src p
  | .rgb16 => pixelRgb16 src p
  | .rgba8 => pixelRgba8 src p
  | .rgba16 => pixelRgba16 src p
  | .g1 => pixelG1 src p
  | .g2 => pixelG2 cfg src p
  | .g4 => pixelG4 src p
  | .g8 => pixelG8 src p
  | .ga1 => pixelGa1 cfg src p
  | .ga2 => pixelGa2 cfg src p
  | .ga4 => pixelGa4 src p
  | .ga8 => pixelGa8 src p

end Sys2Proof.Machine
end

