-- ==== Sys2Proof/Machine/Ops.lean ====
section
/-! DEFINITION. The shared operations over memory, registers and the sink: memory reads and writes, the host's register
accesses, taking an error (60_exceptions R190), reset (70_reset_and_hazards R210), the sink call and the tracked write
(40_checksum_accumulator R105 to R109), and the two ways a PXT operation ends (41_pixel_transcoder R137, R138, R142). -/

namespace Sys2Proof.Machine

/-! ### Memory -/

/-- What an address no entry lists reads as (log 6, 7). -/
def unlistedByte : Byte := 0

/-- `MemRead(space, a, 1)` (R13). -/
def Memory.read : Memory → Nat → Byte
  | [], _ => unlistedByte
  | (k, v) :: rest, a => if k = a then v else Memory.read rest a

/-- One byte stored, the canonical form kept: storing what an unlisted address reads as removes the entry. -/
def Memory.write : Memory → Nat → Byte → Memory
  | [], a, b => if b = unlistedByte then [] else [(a, b)]
  | (k, v) :: rest, a, b =>
    if a < k then (if b = unlistedByte then (k, v) :: rest else (a, b) :: (k, v) :: rest)
    else if a = k then (if b = unlistedByte then rest else (a, b) :: rest)
    else (k, v) :: Memory.write rest a b

/-- `MemRead(space, a, n)` (R13): the n bytes at a, a + 1, ..., in that order. -/
def Memory.readBytes (m : Memory) (a n : Nat) : List Byte := (List.range n).map fun i => m.read (a + i)

/-- A memory that holds the given bytes from address a on and nothing else: the whole-buffer store of a PXT operation. -/
def Memory.ofBytes : Nat → List Byte → Memory
  | _, [] => []
  | a, b :: rest => if b = unlistedByte then Memory.ofBytes (a + 1) rest else (a, b) :: Memory.ofBytes (a + 1) rest

/-- The canonical form, and every listed address in `[lo, hi)`. -/
def Memory.wfIn (hi : Nat) : Nat → Memory → Bool
  | _, [] => true
  | lo, (k, v) :: rest => decide (lo ≤ k) && decide (k < hi) && v != unlistedByte && Memory.wfIn hi (k + 1) rest

/-- The canonical form of HOST: 2^32 bytes (R36). -/
def Memory.wfHost (m : Memory) : Bool := Memory.wfIn Config.hostBytes 0 m

/-- The canonical form of TILE: 8,256 bytes (R35). -/
def Memory.wfTile (m : Memory) : Bool := Memory.wfIn Config.tileBytes 0 m

/-! ### Taking an error, reporting success, reset -/

/-- `raise E`: the operation ends, `STATUS.OK <- 0`, `STATUS.ERR <- code(E)`, and nothing else is saved (R190). There is no
return from an error (R194). -/
def State.raise (e : ErrCode) (s : State) : State := { s with status := s.status.raise e }

/-- The end of a successful operation (R15). -/
def State.succeed (s : State) : State := { s with status := s.status.succeed }

/-- Reset, by hardware or by BLK.RESET alike (R210, R104, R40). It does not touch HOST memory (R211) nor what is the host's or
the sink's to come (log 22). -/
def State.resetBlock (s : State) : State :=
  { s with
    crc := crcInit
    status := Status.reset
    wrDone := 0
    wrAddr := OperandReg.unwritten
    wrLen := OperandReg.unwritten
    srcAddr := OperandReg.unwritten
    imgW := OperandReg.unwritten
    imgH := OperandReg.unwritten
    imgFmt := OperandReg.unwritten
    tile := []
    out := [] }

/-! ### Registers -/

/-- An operand register by name; the other four registers are none. -/
def State.operandReg (s : State) : Reg → Option OperandReg
  | .wrAddr => some s.wrAddr
  | .wrLen => some s.wrLen
  | .srcAddr => some s.srcAddr
  | .imgW => some s.imgW
  | .imgH => some s.imgH
  | .imgFmt => some s.imgFmt
  | .cmd | .status | .csum | .wrDone => none

/-- The first of the named operand registers that the host has not written since reset (U7, R217). -/
def State.firstUnwritten (s : State) : List Reg → Option Reg
  | [] => none
  | r :: rest =>
    match s.operandReg r with
    | some o => if o.written then s.firstUnwritten rest else some r
    | none => s.firstUnwritten rest

/-- A host write of a register other than CMD: stored in an operand register, ignored by a read-only one (R24). -/
def State.hostWrite (r : Reg) (v : Word) (s : State) : State :=
  match r with
  | .wrAddr => { s with wrAddr := { value := v, written := true } }
  | .wrLen => { s with wrLen := { value := v, written := true } }
  | .srcAddr => { s with srcAddr := { value := v, written := true } }
  | .imgW => { s with imgW := { value := v, written := true } }
  | .imgH => { s with imgH := { value := v, written := true } }
  | .imgFmt => { s with imgFmt := { value := v, written := true } }
  | .cmd | .status | .csum | .wrDone => s

/-- `CRC xor XOROUT`: the checksum value, read as CSUM and serialised by CSA.EMIT (R26, R117). -/
def State.checksum (s : State) : Word := s.crc ^^^ s.cfg.xorOut

/-- A host read returns `v`; nothing else changes (R61). -/
def State.returnWord (v : Word) (s : State) : State := { s with readData := v }

/-- A host read that returns a free value, fresh at every draw (log 5, 6, 16). -/
def State.returnFree (v : Word) (s : State) : State := { s with readData := v, draws := s.draws + 1 }

/-- A host read of an operand register: its value, or any value while the host has not written it since reset (R40, U7). -/
def State.readOperand (o : OperandReg) (s : State) : State :=
  if o.written then s.returnWord o.value else s.returnFree (Config.unspecifiedWord s.draws)

/-- A host read of a register (R24): CMD reads 0, STATUS, CSUM and WR_DONE their values, the operand registers theirs. -/
def State.hostRead (r : Reg) (s : State) : State :=
  match r with
  | .cmd => s.returnWord 0
  | .status => s.returnWord s.status.toWord
  | .csum => s.returnWord s.checksum
  | .wrAddr => s.readOperand s.wrAddr
  | .wrLen => s.readOperand s.wrLen
  | .wrDone => s.returnWord s.wrDone
  | .srcAddr => s.readOperand s.srcAddr
  | .imgW => s.readOperand s.imgW
  | .imgH => s.readOperand s.imgH
  | .imgFmt => s.readOperand s.imgFmt

/-- A host read of a TILE byte: the byte while TILE_VALID = 1, any value while it is 0 (R35, U11). -/
def State.hostReadTile (i : Nat) (s : State) : State :=
  if s.status.tileValid then s.returnWord ((s.tile.read i).setWidth 32)
  else s.returnFree ((Config.unspecifiedByte s.draws).setWidth 32)

/-- The host changes a byte of its own memory (R36, R222). -/
def State.hostStore (a : Word) (b : Byte) (s : State) : State := { s with host := s.host.write a.toNat b }

/-! ### The sink and the tracked write -/

/-- `SINK_ACCEPT`: how many of n offered bytes the sink accepts, 0 ≤ k ≤ n (R106): the next given answer, or a free value
when none is given, cut to n (log 8). -/
def State.sinkAnswer (s : State) (n : Nat) : Nat :=
  match s.sinkAnswers with
  | k :: _ => min k n
  | [] => min (Config.sinkAccept s.draws n) n

/-- `SinkWrite(bytes)` when the sink accepts the first k of them: `OUT <- OUT ++ bytes[0..k)` (R106). -/
def State.sinkTake (bytes : List Byte) (k : Nat) (s : State) : State :=
  { s with out := s.out ++ bytes.take k, sinkAnswers := s.sinkAnswers.tail, draws := s.draws + 1 }

/-- `CRC` advanced over exactly the accepted bytes and `WR_DONE <- k` (R105, R107). -/
def State.account (bytes : List Byte) (k : Nat) (s : State) : State :=
  { s with crc := crcUpdate s.cfg.polyR s.crc (bytes.take k), wrDone := BitVec.ofNat 32 k }

/-- `tracked_write(bytes)` (R105): standing failure (R108), empty write (R109), the sink call (R106), the partial failure
(R107). -/
def State.trackedWrite (bytes : List Byte) (s : State) : State :=
  if s.status.fail then State.raise .ioWriteError { s with wrDone := 0 }
  else if bytes.isEmpty then (s.account bytes 0).succeed
  else
    let k := s.sinkAnswer bytes.length
    let t := (s.sinkTake bytes k).account bytes k
    if k < bytes.length then State.raise .ioWriteError { t with status := t.status.withFail }
    else t.succeed

/-! ### The ends of a PXT operation -/

/-- The TILE buffer takes 8,256 bytes whole and becomes valid (R137, R138, R29). -/
def State.loadTile (bytes : List Byte) (s : State) : State :=
  State.succeed { s with tile := Memory.ofBytes 0 bytes, status := s.status.withTileValid true }

/-- PXT.CONVERT raises an error: no TILE byte is written, `TILE_VALID <- 0` (R142). -/
def State.failTile (e : ErrCode) (s : State) : State :=
  State.raise e { s with status := s.status.withTileValid false }

/-- `SRC[i] = MemRead(HOST, SRC_ADDR + i, 1)` (R56). -/
def State.source (s : State) (i : Nat) : Byte := s.host.read (s.srcAddr.value.toNat + i)

/-- An operand range of n bytes at a that does not pass the top of the HOST space (R31, R33, U6). -/
def rangeFits (a : Word) (n : Nat) : Bool := decide (a.toNat + n ≤ Config.hostBytes)

end Sys2Proof.Machine
end

