-- ==== Sys2Proof/Machine/Checksum.lean ====
section
/-! DEFINITION. The meanings of BLK.RESET and of the Checksum Accumulator's operations (40_checksum_accumulator). -/

namespace Sys2Proof.Machine

/-- BLK.RESET (R104): it cannot fail and cannot be refused. -/
def execBlkReset (s : State) : Host.Outcome State Fault Refusal := .next s.resetBlock

/-- CSA.WRITE (R105): the tracked write of `MemRead(HOST, WR_ADDR, WR_LEN)`. Refused while WR_ADDR or WR_LEN has not been
written since reset (U7), or where the range passes 2^32 (U6). -/
def execCsaWrite (s : State) : Host.Outcome State Fault Refusal :=
  match s.firstUnwritten [.wrAddr, .wrLen] with
  | some r => .refused (.operandNotWritten r)
  | none =>
    if rangeFits s.wrAddr.value s.wrLen.value.toNat then
      .next (s.trackedWrite (s.host.readBytes s.wrAddr.value.toNat s.wrLen.value.toNat))
    else .refused .operandRangeWraps

/-- CSA.WRTILE (R111): the tracked write of the 8,256 TILE bytes. Refused while TILE_VALID = 0, whatever FAIL is (R189, U8). -/
def execCsaWrtile (s : State) : Host.Outcome State Fault Refusal :=
  if s.status.tileValid then .next (s.trackedWrite (s.tile.readBytes 0 Config.tileBytes))
  else .refused .tileNotValid

/-- CSA.EMIT (R113): the checksum value is sampled first, then its four bytes go through the tracked write (R114). -/
def execCsaEmit (s : State) : Host.Outcome State Fault Refusal := .next (s.trackedWrite (le32 s.checksum))

/-- CSA.READ (R117): the host reads CSUM; STATUS is not changed and nothing can fail. -/
def execCsaRead (s : State) : Host.Outcome State Fault Refusal := .next (s.returnWord s.checksum)

end Sys2Proof.Machine
end

