-- ==== Sys2Proof/Machine/Transcoder.lean ====
section
/-! DEFINITION. The meanings of the Pixel Transcoder's operations (41_pixel_transcoder R137, R138 and the twelve formats). -/

namespace Sys2Proof.Machine

/-- PXT.LOADRAW (R137): the 8,256 bytes at SRC_ADDR, verbatim. IMG_W, IMG_H and IMG_FMT are ignored; there is no error.
Refused while SRC_ADDR has not been written since reset (U7), or where the range passes 2^32 (U6). -/
def execPxtLoadraw (s : State) : Host.Outcome State Fault Refusal :=
  match s.firstUnwritten [.srcAddr] with
  | some r => .refused (.operandNotWritten r)
  | none =>
    if rangeFits s.srcAddr.value Config.tileBytes then
      .next (s.loadTile (s.host.readBytes s.srcAddr.value.toNat Config.tileBytes))
    else .refused .operandRangeWraps

/-- `IMG_W = 86` and `IMG_H = 48`, compared as 32-bit unsigned numbers (R139). -/
def dimensionsFit (s : State) : Bool :=
  decide (s.imgW.value.toNat = Config.tileW) && decide (s.imgH.value.toNat = Config.tileH)

/-- The body of PXT.CONVERT once its operand registers are known to be written (R138): the range of the selected format's
source bytes is a refusal condition and comes before both errors (R188, log 13); then the dimensions, then the format, then
the pixel loop. -/
def convertImage (f : Option Format) (s : State) : Host.Outcome State Fault Refusal :=
  if (f.all fun g => rangeFits s.srcAddr.value (srcBytesOf g)) then
    if dimensionsFit s then
      match f with
      | some g => .next (s.loadTile (rasterBytes (pixelOf g s.cfg s.source)))
      | none => .next (s.failTile .unsupportedFormat)
    else .next (s.failTile .invalidDimensions)
  else .refused .operandRangeWraps

/-- PXT.CONVERT (R138): IMG_FMT selects the format. Refused while one of its four operand registers has not been written
since reset (U7), or while `IMG_FMT[31:16]` is not 0 (R89, U5). -/
def execPxtConvert (s : State) : Host.Outcome State Fault Refusal :=
  match s.firstUnwritten [.srcAddr, .imgW, .imgH, .imgFmt] with
  | some r => .refused (.operandNotWritten r)
  | none =>
    if formatReserved s.imgFmt.value = 0 then convertImage (formatOf s.imgFmt.value) s
    else .refused (.reservedFormatBits s.imgFmt.value)

/-- PXT.CONVERT with the format already read from IMG_FMT by the decoder (R87, log 3). -/
def convertAs (f : Format) (s : State) : Host.Outcome State Fault Refusal :=
  match s.firstUnwritten [.srcAddr, .imgW, .imgH] with
  | some r => .refused (.operandNotWritten r)
  | none => convertImage (some f) s

/-- PXT.CONVERT.RGB8 (R145). -/
def execPxtConvertRgb8 (s : State) : Host.Outcome State Fault Refusal := convertAs .rgb8 s

/-- PXT.CONVERT.RGB16 (R147). -/
def execPxtConvertRgb16 (s : State) : Host.Outcome State Fault Refusal := convertAs .rgb16 s

/-- PXT.CONVERT.RGBA8 (R146). -/
def execPxtConvertRgba8 (s : State) : Host.Outcome State Fault Refusal := convertAs .rgba8 s

/-- PXT.CONVERT.RGBA16 (R148). -/
def execPxtConvertRgba16 (s : State) : Host.Outcome State Fault Refusal := convertAs .rgba16 s

/-- PXT.CONVERT.G1 (R151). -/
def execPxtConvertG1 (s : State) : Host.Outcome State Fault Refusal := convertAs .g1 s

/-- PXT.CONVERT.G2 (R152). -/
def execPxtConvertG2 (s : State) : Host.Outcome State Fault Refusal := convertAs .g2 s

/-- PXT.CONVERT.G4 (R153). -/
def execPxtConvertG4 (s : State) : Host.Outcome State Fault Refusal := convertAs .g4 s

/-- PXT.CONVERT.G8 (R154). -/
def execPxtConvertG8 (s : State) : Host.Outcome State Fault Refusal := convertAs .g8 s

/-- PXT.CONVERT.GA1 (R155). -/
def execPxtConvertGa1 (s : State) : Host.Outcome State Fault Refusal := convertAs .ga1 s

/-- PXT.CONVERT.GA2 (R156). -/
def execPxtConvertGa2 (s : State) : Host.Outcome State Fault Refusal := convertAs .ga2 s

/-- PXT.CONVERT.GA4 (R157). -/
def execPxtConvertGa4 (s : State) : Host.Outcome State Fault Refusal := convertAs .ga4 s

/-- PXT.CONVERT.GA8 (R158). -/
def execPxtConvertGa8 (s : State) : Host.Outcome State Fault Refusal := convertAs .ga8 s

end Sys2Proof.Machine
end

