-- ==== Sys2Proof/Machine/Dispatch.lean ====
section
/-! DEFINITION. exec: one arm per operation of the opcode table, each one call of its meaning. -/

namespace Sys2Proof.Machine

-- The effect of one operation on the state (00_scope R15).
def exec (i : Instr) (s : State) : Host.Outcome State Fault Refusal :=
  match i with
  | .blkReset => Sys2Proof.Machine.execBlkReset s
  | .csaWrite => Sys2Proof.Machine.execCsaWrite s
  | .csaWrtile => Sys2Proof.Machine.execCsaWrtile s
  | .csaEmit => Sys2Proof.Machine.execCsaEmit s
  | .pxtLoadraw => Sys2Proof.Machine.execPxtLoadraw s
  | .pxtConvert => Sys2Proof.Machine.execPxtConvert s
  | .csaRead => Sys2Proof.Machine.execCsaRead s
  | .pxtConvertRgb8 => Sys2Proof.Machine.execPxtConvertRgb8 s
  | .pxtConvertRgb16 => Sys2Proof.Machine.execPxtConvertRgb16 s
  | .pxtConvertRgba8 => Sys2Proof.Machine.execPxtConvertRgba8 s
  | .pxtConvertRgba16 => Sys2Proof.Machine.execPxtConvertRgba16 s
  | .pxtConvertG1 => Sys2Proof.Machine.execPxtConvertG1 s
  | .pxtConvertG2 => Sys2Proof.Machine.execPxtConvertG2 s
  | .pxtConvertG4 => Sys2Proof.Machine.execPxtConvertG4 s
  | .pxtConvertG8 => Sys2Proof.Machine.execPxtConvertG8 s
  | .pxtConvertGa1 => Sys2Proof.Machine.execPxtConvertGa1 s
  | .pxtConvertGa2 => Sys2Proof.Machine.execPxtConvertGa2 s
  | .pxtConvertGa4 => Sys2Proof.Machine.execPxtConvertGa4 s
  | .pxtConvertGa8 => Sys2Proof.Machine.execPxtConvertGa8 s

end Sys2Proof.Machine
end

