-- ==== Sys2Proof/Machine/Bus.lean ====
section
/-! DEFINITION. How the host reaches the block: taking the next pending access (the block fetches no instructions, R23),
issuing the operation a command word names (R80, R87), and the register, TILE and memory accesses (10_state R24, R35). -/

namespace Sys2Proof.Machine

/-- The next host access, and the state without it (log 1). -/
def fetchAccess (s : State) : Option (Access × State) :=
  match s.pending with
  | [] => none
  | a :: rest => some (a, { s with pending := rest })

/-- What a host read of IMG_FMT would give the decoder: its value where the host has written it since reset. -/
def State.writtenFormat (s : State) : Option Word := if s.imgFmt.written then some s.imgFmt.value else none

/-- A word written to CMD starts the operation it decodes to (R24, R80); a reserved word has no meaning (R88). -/
def issue (w : Word) (s : State) : Host.Outcome State Fault Refusal :=
  match decodeIssue w s.writtenFormat with
  | .ok i => exec i s
  | .error e => .refused (.notDecoded e)

/-- A host write of a register by number (R24): register 0 issues an operation. -/
def busWrite (n : Nat) (v : Word) (s : State) : Host.Outcome State Fault Refusal :=
  match regOfNumber n with
  | none => .fault (.noSuchRegister n)
  | some .cmd => issue v s
  | some r => .next (s.hostWrite r v)

/-- A host read of a register by number (R24): register 2 is the operation CSA.READ (R92, R117). -/
def busRead (n : Nat) (s : State) : Host.Outcome State Fault Refusal :=
  match regOfNumber n with
  | none => .fault (.noSuchRegister n)
  | some r =>
    match decodeRead (BitVec.ofNat 32 n) with
    | .ok i => exec i s
    | .error _ => .next (s.hostRead r)

/-- One host access. -/
def runAccess (a : Access) (s : State) : Host.Outcome State Fault Refusal :=
  match a with
  | .write n v => busWrite n v s
  | .read n => busRead n s
  | .readTile i => if i < Config.tileBytes then .next (s.hostReadTile i) else .fault (.noSuchTileByte i)
  | .store addr b => .next (s.hostStore addr b)
  | .hardReset => .next s.resetBlock

/-- The state in which the very next access runs the operation of a table word (log 1, 3): a format-C word (or one that names
nothing) is about to be written to CMD; a format-F word stands in IMG_FMT and PXT.CONVERT is about to be issued. -/
def placeTableWord (w : Word) (s : State) : State :=
  match portOfWord w with
  | .imageFormat =>
    { s with
      imgFmt := { value := w, written := true }
      pending := .write Reg.cmd.number (encode .pxtConvert).word :: s.pending }
  | _ => { s with pending := .write Reg.cmd.number w :: s.pending }

end Sys2Proof.Machine
end

