-- ==== Sys2Proof/Machine/Step.lean ====
section
/-! DEFINITION. One step of the machine: the next host access, run whole (an operation is one atomic transition, R20). -/

namespace Sys2Proof.Machine

/-- One host access; with none pending the block is idle and stays as it is (R212, log 21). -/
def step (s : State) : Host.Outcome State Fault Refusal :=
  match fetchAccess s with
  | none => .next s
  | some (a, t) => runAccess a t

/-- The state with an opcode-table word placed where the next step takes its operation from. -/
def State.withFetchWord (s : State) (nbits w : Nat) : State := placeTableWord (BitVec.ofNat 32 (w % 2 ^ nbits)) s

end Sys2Proof.Machine
end

