-- ==== Sys2Proof/Safety.lean ====
section
/-! DEFINITION. The terms claims use: the invariant every step keeps, what a tracked write offers to the sink, when a
conversion is ready to run, and the pixel words of a tile. -/

namespace Sys2Proof.Machine

/-- What holds of the machine after reset and after every step. -/
structure State.Inv (s : State) : Prop where
  /-- `CRC = crc_update(0xFFFFFFFF, OUT)` (10_state R25), with the configured `POLY_R` (R8). -/
  crcTracksOut : s.crc = crcUpdate s.cfg.polyR crcInit s.out
  /-- HOST is in canonical form within 2^32 bytes (R36). -/
  hostWf : s.host.wfHost = true
  /-- TILE is in canonical form within 8,256 bytes (R35). -/
  tileWf : s.tile.wfTile = true
  /-- The bytes counted in WR_DONE have been accepted by the sink (R32, R39). -/
  doneInOut : s.wrDone.toNat ≤ s.out.length
  /-- `STATUS.OK` = 1 goes with `STATUS.ERR` = 0 (00_scope R15, R30). -/
  okNoError : s.status.ok = true → s.status.err = .noError
  /-- An IoWriteError leaves `STATUS.FAIL` = 1 (60_exceptions R180). -/
  ioErrorFails : s.status.err = .ioWriteError → s.status.fail = true

/-- The operation is a tracked write that is not refused and offers these bytes (R105, R111, R113): the WR_LEN bytes of HOST at
WR_ADDR, the 8,256 bytes of a valid TILE, or the four bytes of the checksum value. -/
def Offers (i : Instr) (s : State) (bytes : List Byte) : Prop :=
  match i with
  | .csaWrite =>
    s.wrAddr.written = true ∧ s.wrLen.written = true ∧
      s.wrAddr.value.toNat + s.wrLen.value.toNat ≤ 4294967296 ∧
      bytes = s.host.readBytes s.wrAddr.value.toNat s.wrLen.value.toNat
  | .csaWrtile => s.status.tileValid = true ∧ bytes = s.tile.readBytes 0 8256
  | .csaEmit => bytes = le32 (s.crc ^^^ s.cfg.xorOut)
  | _ => False

/-- The operand registers of a conversion of `n` source bytes are written and name a range that fits (R33, R138, R217). -/
def SourceReady (s : State) (n : Nat) : Prop :=
  s.srcAddr.written = true ∧ s.imgW.written = true ∧ s.imgH.written = true ∧ s.srcAddr.value.toNat + n ≤ 4294967296

/-- `IMG_W` is 86 and `IMG_H` is 48 (R139). -/
def Is86By48 (s : State) : Prop := s.imgW.value = 86 ∧ s.imgH.value = 48

/-- The state a successful PXT operation leaves (R137, R138): TILE, TILE_VALID = 1, OK = 1, ERR = 0, all else as before. -/
def tileLoaded (s : State) (t : Memory) : State :=
  { s with tile := t, status := { s.status with ok := true, tileValid := true, err := .noError } }

/-- The state a failed PXT.CONVERT leaves (R142): TILE_VALID = 0, OK = 0, the error's code, all else as before. -/
def convertFailed (s : State) (e : ErrCode) : State :=
  { s with status := { s.status with ok := false, tileValid := false, err := e } }

/-- The pixel word of index p in a tile, as a number: low byte first (20_memory R55). -/
def tileWord (t : Memory) (p : Nat) : Nat := (t.read (2 * p)).toNat + 256 * (t.read (2 * p + 1)).toNat

/-- `SRC[i]` as a number. -/
def srcNat (s : State) (i : Nat) : Nat := (s.host.read (s.srcAddr.value.toNat + i)).toNat

/-- The accesses that reset the block: hardware reset, and BLK.RESET written to CMD (R210). -/
def ResetsBlock (a : Access) : Prop := a = .hardReset ∨ a = .write 0 1

/-- The Pixel Transcoder's operations: PXT.LOADRAW, PXT.CONVERT and the twelve formats (20_memory R51). -/
def IsPxt : Instr → Prop
  | .blkReset | .csaWrite | .csaWrtile | .csaEmit | .csaRead => False
  | _ => True

/-- Green with its low bit duplicated, from a channel of 6 + n bits (R132, R133): the top 6 bits, the lowest of them forced to
1 where the top bit is 1. -/
def greenField (n g : Nat) : Nat := if g < 2 ^ (n + 5) then g / 2 ^ n else 2 * (g / 2 ^ (n + 1)) + 1

/-- The number of a pixel word with these three fields (00_scope R14). -/
def wordOfFields (r g b : Nat) : Nat := 2048 * r + 32 * g + b

/-- The pixel word of an 8-bit grey value packed as three equal channels (R132, R157, R158). -/
def greyWord (y : Nat) : Nat := wordOfFields (y / 8) (greenField 2 y) (y / 8)

end Sys2Proof.Machine
end

