-- ==== Sys2Proof/WellFormed.lean ====
section
/-! DEFINITION. What the host may issue: decidable checks on accesses and table words. The machine does not assume them
(an ill-formed access is refused, faults or is an error, as its rule says); claims may. -/

namespace Sys2Proof

/-- An operation has no operand field (R80), so every term is well formed. -/
def Instr.wellFormed : Instr → Bool := fun _ => true

/-- A table word is well formed when it decodes in its place. -/
def TableWord.wellFormed (t : TableWord) : Bool :=
  match decode t with
  | .ok _ => true
  | .error _ => false

/-- What the host may issue: a command word that is not reserved (R88), `IMG_FMT` with its reserved bits 0 (R89), a register
number 0 to 9 (R24), a TILE index 0 to 8,255 (R35). -/
def Access.wellFormed : Access → Bool
  | .write reg v =>
    match regOfNumber reg with
    | none => false
    | some .cmd => TableWord.wellFormed { port := .command, word := v }
    | some .imgFmt => formatReserved v == 0
    | some _ => true
  | .read reg => (regOfNumber reg).isSome
  | .readTile i => decide (i < Config.tileBytes)
  | .store _ _ => true
  | .hardReset => true

end Sys2Proof
end

