-- ==== Sys2Proof/Certificates/Slice0/Obligations.lean ====
section
/-! DEFINITION. The statements about the model for the provers, one definition each; OBLIGATIONS.json lists them. -/

open Sys2Proof Sys2Proof.Machine

/-! ### Encoding (30_encoding) -/

/-- Decoding an operation's encoding gives the operation back (R81, R85). -/
def Obligations.DecodeOfEncodeIsTheInstruction : Prop :=
  ∀ i : Instr, i.wellFormed = true → decode (encode i) = .ok i

/-- A word decodes, in its place, only to the operation whose encoding it is: no two words share a row (R87, R88, R90). -/
def Obligations.DecodedWordIsItsEncoding : Prop :=
  ∀ (t : TableWord) (i : Instr), decode t = .ok i → encode i = t

/-- Words written out from the tables of R81 and R85, and a reserved one (R88), decode as the tables say. -/
def Obligations.WrittenOutWordsDecode : Prop :=
  decode { port := .command, word := 0x00000001 } = .ok .blkReset ∧
  decode { port := .command, word := 0x00000002 } = .ok .csaWrite ∧
  decode { port := .command, word := 0x00000011 } = .ok .pxtConvert ∧
  decode { port := .command, word := 0x00000102 } = .error (.reservedCommand 0x00000102) ∧
  decode { port := .readSelect, word := 0x00000002 } = .ok .csaRead ∧
  decode { port := .imageFormat, word := 0x00000110 } = .ok .pxtConvertRgba16 ∧
  decode { port := .imageFormat, word := 0x00000304 } = .ok .pxtConvertGa4 ∧
  decode { port := .imageFormat, word := 0x00000210 } = .error (.unsupportedFormat 0x00000210) ∧
  decode { port := .imageFormat, word := 0x00010008 } = .error (.reservedFormatBits 0x00010008)

/-- R88: a word written to CMD that is not one of the six command words has no next state: it is refused. -/
def Obligations.ReservedCommandWordIsRefused : Prop :=
  ∀ (s : State) (w : Word) (rest : List Access), s.pending = .write 0 w :: rest →
    w ∉ [0x00000001, 0x00000002, 0x00000003, 0x00000004, 0x00000010, 0x00000011] →
    step s = .refused (.notDecoded (.reservedCommand w))

/-- R57's table: the source bytes of each format. -/
def Obligations.SourceByteCounts : Prop :=
  srcBytesOf .rgb8 = 12384 ∧ srcBytesOf .rgb16 = 24768 ∧ srcBytesOf .rgba8 = 16512 ∧ srcBytesOf .rgba16 = 33024 ∧
  srcBytesOf .g1 = 516 ∧ srcBytesOf .g2 = 1032 ∧ srcBytesOf .g4 = 2064 ∧ srcBytesOf .g8 = 4128 ∧
  srcBytesOf .ga1 = 1032 ∧ srcBytesOf .ga2 = 2064 ∧ srcBytesOf .ga4 = 4128 ∧ srcBytesOf .ga8 = 8256

/-! ### Steps -/

/-- A step runs the operation that the next access decodes to, on the state with that access taken off the list: a word
written to CMD (with IMG_FMT where it is written, R87), or a read of register 2 (R117). -/
def Obligations.StepRunsTheDecodedOperation : Prop :=
  (∀ (s : State) (w : Word) (i : Instr) (rest : List Access), s.pending = .write 0 w :: rest →
    decodeIssue w (if s.imgFmt.written then some s.imgFmt.value else none) = .ok i → i.wellFormed = true →
    step s = exec i { s with pending := rest }) ∧
  (∀ (s : State) (rest : List Access), s.pending = .read 2 :: rest →
    step s = exec .csaRead { s with pending := rest })

/-- Where an opcode-table word decodes, the step after `withFetchWord` runs that operation, on the state as it was but for
IMG_FMT in the case of a format word (the model's own, log 1 to 3). -/
def Obligations.PlacedWordRunsNext : Prop :=
  ∀ (s : State) (w : Nat) (i : Instr), decodeTableWord 32 w = some i →
    step (s.withFetchWord 32 w) = exec i s ∨
    (encode i = { port := .imageFormat, word := BitVec.ofNat 32 w } ∧
      step (s.withFetchWord 32 w) = exec i { s with imgFmt := { value := BitVec.ofNat 32 w, written := true } })

/-- With no access pending the block is idle and starts nothing on its own (R212). -/
def Obligations.IdleBlockStaysAsItIs : Prop :=
  ∀ s : State, s.pending = [] → step s = .next s

/-! ### Reset -/

/-- The values the spec gives for reset (R40): CRC, STATUS, WR_DONE, OUT; no operand register is written. That the checksum
value CRC xor XOROUT is 0 holds only because XOROUT is 0xFFFFFFFF, the reference value, in State.reset: XOROUT is an open
parameter (R8, D4), and its value there is the model's choice (log 9). -/
def Obligations.ResetStateHasTheStatedValues : Prop :=
  State.reset.crc = 0xFFFFFFFF ∧ State.reset.crc ^^^ State.reset.cfg.xorOut = 0x00000000 ∧
  State.reset.status.toWord = 0x00000000 ∧ State.reset.wrDone = 0 ∧ State.reset.out = [] ∧
  State.reset.wrAddr.written = false ∧ State.reset.wrLen.written = false ∧ State.reset.srcAddr.written = false ∧
  State.reset.imgW.written = false ∧ State.reset.imgH.written = false ∧ State.reset.imgFmt.written = false

/-- BLK.RESET from any state (R104): the reset values of R40; HOST (R211) and the parameters (R21) untouched; a second BLK.RESET
changes nothing more; and it is the only operation that clears FAIL. That the accesses and sink answers still to come, the
latest read and the count of draws stay is the model's choice about its own fields (DEDUCED, log 22). -/
def Obligations.BlkResetStartsANewInvocation : Prop :=
  (∀ s : State, ∃ t, exec .blkReset s = .next t ∧ t.crc = 0xFFFFFFFF ∧ t.status.toWord = 0x00000000 ∧ t.wrDone = 0 ∧
    t.out = [] ∧ t.wrAddr.written = false ∧ t.wrLen.written = false ∧ t.srcAddr.written = false ∧
    t.imgW.written = false ∧ t.imgH.written = false ∧ t.imgFmt.written = false ∧
    t.host = s.host ∧ t.cfg = s.cfg ∧ t.pending = s.pending ∧ t.readData = s.readData ∧
    t.sinkAnswers = s.sinkAnswers ∧ t.draws = s.draws ∧ exec .blkReset t = .next t) ∧
  (∀ (i : Instr) (s t : State), exec i s = .next t → s.status.fail = true → t.status.fail = false → i = .blkReset)

/-- Hardware reset and BLK.RESET have the same effect (R210). -/
def Obligations.HardwareResetIsBlkReset : Prop :=
  ∀ (s : State) (rest : List Access),
    step { s with pending := .hardReset :: rest } = exec .blkReset { s with pending := rest } ∧
    step { s with pending := .write 0 1 :: rest } = exec .blkReset { s with pending := rest }

/-! ### CRC arithmetic (40_checksum_accumulator) -/

/-- R101, for any polynomial POLY_R, an argument of the configuration (R8): crc_step is 8 rounds of "shift right, xor POLY_R
where the bit shifted out was 1" after the byte has been xored into bits 7:0; and its five spot values at the polynomial that
the spec supplies from general knowledge (log 19). -/
def Obligations.CrcStepIsTheBitSerialStep : Prop :=
  (∀ (poly r : Word) (b : Byte), crcStep poly r b =
    (fun x : Word => if x.toNat % 2 = 1 then (x >>> 1) ^^^ poly else x >>> 1)^[8] (r ^^^ BitVec.ofNat 32 b.toNat)) ∧
  crcStep 0xEDB88320 0x00000000 0x00 = 0x00000000 ∧ crcStep 0xEDB88320 0x00000000 0x01 = 0x77073096 ∧
  crcStep 0xEDB88320 0x00000000 0x80 = 0xEDB88320 ∧ crcStep 0xEDB88320 0xFFFFFFFF 0x00 = 0x2DFD1072 ∧
  crcStep 0xEDB88320 0xFFFFFFFF 0xFF = 0x00FFFFFF

/-- R103 ("[derived: each of the 8 rounds is invertible because bit 31 of POLY_R is 1]"): for every polynomial whose bit 31 is 1
and every fixed byte, crc_step is a bijection on 32-bit values; and with the spec's polynomial (log 19) the check value of
"123456789" is 0xCBF43926. -/
def Obligations.CrcStepIsABijectionWithTheCheckValue : Prop :=
  (∀ poly : Word, poly.getLsbD 31 = true → ∀ b : Byte, Function.Bijective fun r : Word => crcStep poly r b) ∧
  crcUpdate 0xEDB88320 0xFFFFFFFF [0x31, 0x32, 0x33, 0x34, 0x35, 0x36, 0x37, 0x38, 0x39] ^^^ 0xFFFFFFFF = 0xCBF43926

/-! ### Tracked writes -/

/-- R105: a tracked write that the sink accepts whole: OUT grows by the bytes offered, CRC is advanced over them, WR_DONE is
their number, OK = 1, ERR = 0, and nothing else of the block changes (the sink's answer and one draw are used up). -/
def Obligations.AcceptedTrackedWrite : Prop :=
  ∀ (i : Instr) (s : State) (bytes : List Byte), Offers i s bytes → s.status.fail = false → bytes ≠ [] →
    s.sinkAnswer bytes.length = bytes.length →
    exec i s = .next
      { s with
        crc := crcUpdate s.cfg.polyR s.crc bytes
        out := s.out ++ bytes
        wrDone := BitVec.ofNat 32 bytes.length
        status := { s.status with ok := true, err := .noError }
        sinkAnswers := s.sinkAnswers.tail
        draws := s.draws + 1 }

/-- R107: where the sink accepts only k < n bytes, OUT and CRC advance over exactly those k, WR_DONE = k, FAIL = 1, OK = 0,
ERR = 3, and nothing else of the block changes; if CRC was the running value over OUT before, it still is. -/
def Obligations.ShortTrackedWrite : Prop :=
  ∀ (i : Instr) (s : State) (bytes : List Byte) (k : Nat), Offers i s bytes → s.status.fail = false →
    s.sinkAnswer bytes.length = k → k < bytes.length →
    ∃ t, exec i s = .next t ∧
      t = { s with
        crc := crcUpdate s.cfg.polyR s.crc (bytes.take k)
        out := s.out ++ bytes.take k
        wrDone := BitVec.ofNat 32 k
        status := { s.status with ok := false, fail := true, err := .ioWriteError }
        sinkAnswers := s.sinkAnswers.tail
        draws := s.draws + 1 } ∧
      t.status.err.code = 3 ∧
      (s.crc = crcUpdate s.cfg.polyR 0xFFFFFFFF s.out → t.crc = crcUpdate t.cfg.polyR 0xFFFFFFFF t.out)

/-- R108: while FAIL = 1 every tracked write ends at once with IoWriteError: the sink is not called, OUT and CRC stay, WR_DONE
is 0; of the operations only BLK.RESET clears FAIL; CSUM stays readable and is the checksum of what the sink holds. -/
def Obligations.StandingFailureEndsTrackedWrites : Prop :=
  (∀ (i : Instr) (s : State) (bytes : List Byte), Offers i s bytes → s.status.fail = true →
    exec i s = .next { s with wrDone := 0, status := { s.status with ok := false, err := .ioWriteError } }) ∧
  (∀ (i : Instr) (s t : State), s.status.fail = true → exec i s = .next t → (t.status.fail = false ↔ i = .blkReset)) ∧
  (∀ s : State, s.Inv → s.status.fail = true →
    exec .csaRead s = .next { s with readData := crcUpdate s.cfg.polyR 0xFFFFFFFF s.out ^^^ s.cfg.xorOut })

/-- R109: CSA.WRITE with WR_LEN = 0 and FAIL = 0 succeeds without calling the sink. -/
def Obligations.EmptyWriteSucceeds : Prop :=
  ∀ s : State, s.wrAddr.written = true → s.wrLen = { value := 0, written := true } → s.status.fail = false →
    exec .csaWrite s = .next { s with wrDone := 0, status := { s.status with ok := true, err := .noError } }

/-- CSA.WRITE is refused while WR_ADDR or WR_LEN has not been written since reset (U7), and where WR_ADDR + WR_LEN passes 2^32
(U6), whatever FAIL is (R189); it is not refused otherwise. -/
def Obligations.CsaWriteRefusals : Prop :=
  ∀ s : State,
    (s.wrAddr.written = false ∨ s.wrLen.written = false → ∃ r, exec .csaWrite s = .refused (.operandNotWritten r)) ∧
    (s.wrAddr.written = true → s.wrLen.written = true → 4294967296 < s.wrAddr.value.toNat + s.wrLen.value.toNat →
      exec .csaWrite s = .refused .operandRangeWraps) ∧
    (s.wrAddr.written = true → s.wrLen.written = true → s.wrAddr.value.toNat + s.wrLen.value.toNat ≤ 4294967296 →
      ∃ t, exec .csaWrite s = .next t)

/-- CSA.WRTILE with TILE_VALID = 0 is refused whether FAIL is 0 or 1 (R111, R189); with TILE_VALID = 1 it has a next state. -/
def Obligations.WrtileNeedsAValidTile : Prop :=
  ∀ s : State,
    (s.status.tileValid = false → exec .csaWrtile s = .refused .tileNotValid) ∧
    (s.status.tileValid = true → ∃ t, exec .csaWrtile s = .next t)

/-- R113, R93: CSA.EMIT, where the sink accepts the four bytes, appends the checksum value as it was before, least
significant byte first, and CRC has been advanced over the four bytes like any others (R114). -/
def Obligations.EmitAppendsTheChecksum : Prop :=
  ∀ s : State, s.status.fail = false → s.sinkAnswer 4 = 4 →
    ∃ b0 b1 b2 b3 : Byte,
      b0.toNat + 256 * b1.toNat + 65536 * b2.toNat + 16777216 * b3.toNat = (s.crc ^^^ s.cfg.xorOut).toNat ∧
      exec .csaEmit s = .next
        { s with
          crc := crcUpdate s.cfg.polyR s.crc [b0, b1, b2, b3]
          out := s.out ++ [b0, b1, b2, b3]
          wrDone := 4
          status := { s.status with ok := true, err := .noError }
          sinkAnswers := s.sinkAnswers.tail
          draws := s.draws + 1 }

/-- R110, an inference the spec marks as its own ("[derived: from rules R102 and R105]"): two successful writes of b then c
leave the same CRC, the same OUT, the same STATUS and TILE as one successful write of b ++ c; only WR_DONE differs. -/
def Obligations.WritingInChunksIsTheSame : Prop :=
  ∀ (s₁ t₁ s₂ t₂ s t : State) (b c : List Byte),
    Offers .csaWrite s₁ b → exec .csaWrite s₁ = .next t₁ → t₁.status.ok = true →
    s₂.crc = t₁.crc → s₂.out = t₁.out → s₂.status = t₁.status → s₂.tile = t₁.tile → s₂.cfg = t₁.cfg →
    Offers .csaWrite s₂ c → exec .csaWrite s₂ = .next t₂ → t₂.status.ok = true →
    s.crc = s₁.crc → s.out = s₁.out → s.status = s₁.status → s.tile = s₁.tile → s.cfg = s₁.cfg →
    Offers .csaWrite s (b ++ c) → exec .csaWrite s = .next t → t.status.ok = true →
    t₂.crc = t.crc ∧ t₂.out = t.out ∧ t₂.status = t.status ∧ t₂.tile = t.tile ∧
    t₂.wrDone.toNat = c.length ∧ t.wrDone.toNat = b.length + c.length

/-- R115 ("[derived: by running rules R101 and R113; not an FW statement]"): after a successful CSA.EMIT the raw register does
not depend on what came before, but only on POLY_R and XOROUT: it is 0xDEBB20E3 (CSUM 0x2144DF1C) with the spec's polynomial
(log 19) and XOROUT = 0xFFFFFFFF, and 0 with XOROUT = 0. -/
def Obligations.ResidueAfterEmit : Prop :=
  ∀ s t : State, exec .csaEmit s = .next t → t.status.ok = true →
    t.crc = crcUpdate s.cfg.polyR 0x00000000 (le32 s.cfg.xorOut) ∧
    (s.cfg.polyR = 0xEDB88320 → s.cfg.xorOut = 0xFFFFFFFF → t.crc = 0xDEBB20E3 ∧ t.crc ^^^ t.cfg.xorOut = 0x2144DF1C) ∧
    (s.cfg.xorOut = 0x00000000 → t.crc = 0x00000000)

/-- R118 ("[derived: from rules R113 and R105]"): after a successful CSA.EMIT the last four bytes of OUT are the serialised checksum of all bytes before them. -/
def Obligations.StoredChecksumRoundTrip : Prop :=
  ∀ s t : State, s.Inv → exec .csaEmit s = .next t → t.status.ok = true →
    4 ≤ t.out.length ∧
    le32 (crcUpdate t.cfg.polyR 0xFFFFFFFF (t.out.take (t.out.length - 4)) ^^^ t.cfg.xorOut) =
      t.out.drop (t.out.length - 4)

/-- R106: the sink accepts some number k of the n bytes offered, 0 ≤ k ≤ n, and no rule says which: every such k is the answer
for some list of given answers. -/
def Obligations.SinkAcceptsAnyPrefix : Prop :=
  ∀ (s : State) (n : Nat), s.sinkAnswer n ≤ n ∧
    ∀ k, k ≤ n → ∃ answers, State.sinkAnswer { s with sinkAnswers := answers } n = k

/-- R111 ("[derived: from rule R105]"): when the TILE content equals the 8,256 HOST bytes at WR_ADDR, CSA.WRTILE and CSA.WRITE of them have the same effect. -/
def Obligations.WrtileEqualsWriteOfTheSameBytes : Prop :=
  ∀ s : State, s.status.tileValid = true → s.wrAddr.written = true → s.wrLen = { value := 8256, written := true } →
    s.wrAddr.value.toNat + 8256 ≤ 4294967296 →
    (∀ i, i < 8256 → s.tile.read i = s.host.read (s.wrAddr.value.toNat + i)) →
    (∃ t, exec .csaWrtile s = .next t) ∧ exec .csaWrtile s = exec .csaWrite s

/-! ### The whole machine -/

/-- Every step keeps the invariant: CRC = crc_update(0xFFFFFFFF, OUT) (R25), both memories in canonical form, WR_DONE within OUT
(R39), OK = 1 only with ERR = 0, IoWriteError only with FAIL = 1. -/
def Obligations.EveryStepKeepsTheInvariant : Prop :=
  ∀ s t : State, s.Inv → step s = .next t → t.Inv

/-- The invariant holds right after reset. -/
def Obligations.ResetMeetsTheInvariant : Prop := State.reset.Inv

/-- R37: OUT is append-only: a step whose access is no reset leaves the old OUT a prefix of the new one. -/
def Obligations.OutputOnlyGrows : Prop :=
  ∀ s t : State, step s = .next t → (∀ a rest, s.pending = a :: rest → ¬ ResetsBlock a) → s.out <+: t.out

/-- R28: FAIL is never cleared by a step whose access is no reset. -/
def Obligations.FailureIsSticky : Prop :=
  ∀ s t : State, step s = .next t → (∀ a rest, s.pending = a :: rest → ¬ ResetsBlock a) →
    s.status.fail = true → t.status.fail = true

/-- No operation writes HOST (R36), an operand register (R31, R33, R34; BLK.RESET apart) or a parameter (R21). -/
def Obligations.OperationsLeaveTheHostSideAlone : Prop :=
  ∀ (i : Instr) (s t : State), exec i s = .next t →
    (∀ a, t.host.read a = s.host.read a) ∧ t.host = s.host ∧ t.cfg = s.cfg ∧ t.pending = s.pending ∧
    (i ≠ .blkReset → t.wrAddr = s.wrAddr ∧ t.wrLen = s.wrLen ∧ t.srcAddr = s.srcAddr ∧ t.imgW = s.imgW ∧
      t.imgH = s.imgH ∧ t.imgFmt = s.imgFmt)

/-- CSA.WRITE, CSA.WRTILE, CSA.EMIT and CSA.READ leave every TILE byte and TILE_VALID as they were (R29, R51). -/
def Obligations.ChecksumOperationsLeaveTheTile : Prop :=
  ∀ (i : Instr) (s t : State), i ∈ [Instr.csaWrite, .csaWrtile, .csaEmit, .csaRead] → exec i s = .next t →
    (∀ a, t.tile.read a = s.tile.read a) ∧ t.tile = s.tile ∧ t.status.tileValid = s.status.tileValid

/-- PXT.LOADRAW and PXT.CONVERT, in every format, leave CRC, OUT, WR_DONE, FAIL and the sink alone (R51, R142). -/
def Obligations.TranscoderLeavesTheChecksumState : Prop :=
  ∀ (i : Instr) (s t : State), IsPxt i → exec i s = .next t →
    t.crc = s.crc ∧ t.out = s.out ∧ t.wrDone = s.wrDone ∧ t.status.fail = s.status.fail ∧
    t.sinkAnswers = s.sinkAnswers ∧ t.draws = s.draws ∧ t.readData = s.readData

/-- Every operation but BLK.RESET and CSA.READ reports itself: OK = 1 with ERR = 0, or OK = 0 with one of the codes 1 to 3
(R15, R27, R30, R180); CSA.READ leaves STATUS alone (R117). -/
def Obligations.StatusReportsTheOutcome : Prop :=
  ∀ (i : Instr) (s t : State), exec i s = .next t →
    (i = .csaRead → t.status = s.status) ∧
    (i ≠ .csaRead → i ≠ .blkReset →
      (t.status.ok = true ∧ t.status.err.code.toNat = 0) ∨
      (t.status.ok = false ∧ 1 ≤ t.status.err.code.toNat ∧ t.status.err.code.toNat ≤ 3))

/-- An operation never faults, and it is refused only for the reasons of R186: an operand register not written, a range past
2^32, no valid tile, reserved IMG_FMT bits. -/
def Obligations.OperationsStopOnlyAsTheSpecSays : Prop :=
  ∀ (i : Instr) (s : State),
    (∀ f, exec i s ≠ .fault f) ∧
    (∀ r, exec i s = .refused r →
      (∃ q, r = .operandNotWritten q) ∨ r = .operandRangeWraps ∨ r = .tileNotValid ∨ ∃ v, r = .reservedFormatBits v)

/-! ### Registers and host accesses (10_state) -/

/-- R117: a read of CSUM returns CRC xor XOROUT and changes nothing else. That it returns 0 right after reset holds only because
XOROUT is 0xFFFFFFFF, the reference value, in State.reset: the model's choice for an open parameter (R8, D4; log 9). -/
def Obligations.CsumReadReturnsTheChecksum : Prop :=
  (∀ s : State, exec .csaRead s = .next { s with readData := s.crc ^^^ s.cfg.xorOut }) ∧
  exec .csaRead State.reset = .next { State.reset with readData := 0x00000000 }

/-- R27 to R30: a read of STATUS returns OK in bit 0, FAIL in bit 1, TILE_VALID in bit 2, the error code in bits 15:8, and 0 in
every other bit. -/
def Obligations.StatusReadShowsItsFields : Prop :=
  ∀ (s : State) (rest : List Access), s.pending = .read 1 :: rest →
    ∃ w : Word, step s = .next { s with pending := rest, readData := w } ∧
      w.getLsbD 0 = s.status.ok ∧ w.getLsbD 1 = s.status.fail ∧ w.getLsbD 2 = s.status.tileValid ∧
      w.toNat / 256 % 256 = s.status.err.code.toNat ∧
      (∀ i, 3 ≤ i → i < 8 → w.getLsbD i = false) ∧ (∀ i, 16 ≤ i → w.getLsbD i = false)

/-- R24, R31, R33, R34: a host write to an operand register stores the whole value, any value, and marks it written; a host
read of a written operand register returns its value. -/
def Obligations.OperandRegistersHoldWhatTheHostWrites : Prop :=
  (∀ (s : State) (v : Word),
    step { s with pending := .write 3 v :: s.pending } = .next { s with wrAddr := { value := v, written := true } } ∧
    step { s with pending := .write 4 v :: s.pending } = .next { s with wrLen := { value := v, written := true } } ∧
    step { s with pending := .write 6 v :: s.pending } = .next { s with srcAddr := { value := v, written := true } } ∧
    step { s with pending := .write 7 v :: s.pending } = .next { s with imgW := { value := v, written := true } } ∧
    step { s with pending := .write 8 v :: s.pending } = .next { s with imgH := { value := v, written := true } } ∧
    step { s with pending := .write 9 v :: s.pending } = .next { s with imgFmt := { value := v, written := true } }) ∧
  (∀ (s : State) (r : Reg) (o : OperandReg), s.operandReg r = some o → o.written = true →
    step { s with pending := .read r.number :: s.pending } = .next { s with readData := o.value })

/-- R24: a host write to STATUS, CSUM or WR_DONE is ignored; a host read of CMD returns 0, of WR_DONE its value; a register
number above 9 names no register and stops with a fault (log 15). -/
def Obligations.OtherRegisterAccesses : Prop :=
  ∀ s : State,
    (∀ (n : Nat) (v : Word), n = 1 ∨ n = 2 ∨ n = 5 → step { s with pending := .write n v :: s.pending } = .next s) ∧
    step { s with pending := .read 0 :: s.pending } = .next { s with readData := 0 } ∧
    step { s with pending := .read 5 :: s.pending } = .next { s with readData := s.wrDone } ∧
    (∀ (n : Nat) (v : Word), 9 < n →
      step { s with pending := .write n v :: s.pending } = .fault (.noSuchRegister n) ∧
      step { s with pending := .read n :: s.pending } = .fault (.noSuchRegister n))

/-- A host read of an operand register not written since reset completes and returns some word, with nothing else of the
block changed (R40, U7; that a draw is counted is the model's own, log 5, 16). -/
def Obligations.UnwrittenOperandReadsComplete : Prop :=
  ∀ (s : State) (r : Reg) (o : OperandReg), s.operandReg r = some o → o.written = false →
    ∃ w : Word, step { s with pending := .read r.number :: s.pending } = .next { s with readData := w, draws := s.draws + 1 }

/-- R35: a host read of a TILE byte returns it while TILE_VALID = 1, some byte while it is 0, and an index above 8,255 names
no byte (log 6, 15). -/
def Obligations.TileReads : Prop :=
  ∀ (s : State) (i : Nat),
    (i < 8256 → s.status.tileValid = true →
      step { s with pending := .readTile i :: s.pending } = .next { s with readData := BitVec.ofNat 32 (s.tile.read i).toNat }) ∧
    (i < 8256 → s.status.tileValid = false →
      ∃ b : Byte, step { s with pending := .readTile i :: s.pending } =
        .next { s with readData := BitVec.ofNat 32 b.toNat, draws := s.draws + 1 }) ∧
    (8256 ≤ i → step { s with pending := .readTile i :: s.pending } = .fault (.noSuchTileByte i))

/-- The host's store changes one byte of HOST and nothing else (R36; log 23). -/
def Obligations.HostStoreChangesOneByte : Prop :=
  ∀ (s : State) (a : Word) (b : Byte), s.host.wfHost = true →
    ∃ m : Memory, step { s with pending := .store a b :: s.pending } = .next { s with host := m } ∧ m.wfHost = true ∧
      m.read a.toNat = b ∧ ∀ x, x ≠ a.toNat → m.read x = s.host.read x

/-! ### The Pixel Transcoder (41_pixel_transcoder) -/

/-- R137: PXT.LOADRAW copies the 8,256 bytes at SRC_ADDR verbatim, sets TILE_VALID and OK, clears ERR, and changes nothing
else; IMG_W, IMG_H and IMG_FMT need not be written. It is refused while SRC_ADDR has not been written since reset (U7), and
where SRC_ADDR + 8,256 passes 2^32 (U6). -/
def Obligations.LoadrawCopiesTheBuffer : Prop :=
  ∀ s : State,
    (s.srcAddr.written = true → s.srcAddr.value.toNat + 8256 ≤ 4294967296 →
      ∃ t, exec .pxtLoadraw s = .next (tileLoaded s t) ∧ t.wfTile = true ∧
        ∀ i, i < 8256 → t.read i = s.host.read (s.srcAddr.value.toNat + i)) ∧
    (s.srcAddr.written = false → exec .pxtLoadraw s = .refused (.operandNotWritten .srcAddr)) ∧
    (s.srcAddr.written = true → 4294967296 < s.srcAddr.value.toNat + 8256 →
      exec .pxtLoadraw s = .refused .operandRangeWraps)

/-- PXT.CONVERT is refused while one of its four operand registers has not been written since reset (U7), while
IMG_FMT[31:16] is not 0 (U5, R89), and where the source range of the selected format passes 2^32 (U6), in each case before any
error (R188; that the range counts among the refusals tested before the dimensions is DEDUCED, log 13). -/
def Obligations.ConvertRefusals : Prop :=
  ∀ s : State,
    (s.srcAddr.written = false ∨ s.imgW.written = false ∨ s.imgH.written = false ∨ s.imgFmt.written = false →
      ∃ r, exec .pxtConvert s = .refused (.operandNotWritten r)) ∧
    (s.srcAddr.written = true → s.imgW.written = true → s.imgH.written = true → s.imgFmt.written = true →
      65536 ≤ s.imgFmt.value.toNat → exec .pxtConvert s = .refused (.reservedFormatBits s.imgFmt.value)) ∧
    (∀ f : Format, s.srcAddr.written = true → s.imgW.written = true → s.imgH.written = true → s.imgFmt.written = true →
      s.imgFmt.value = f.word → 4294967296 < s.srcAddr.value.toNat + srcBytesOf f →
      exec .pxtConvert s = .refused .operandRangeWraps)

/-- R139, R142, R188: dimensions other than 86 × 48 raise InvalidDimensions whatever the format is: TILE_VALID = 0, OK = 0,
ERR = 1, and nothing else changes. -/
def Obligations.WrongDimensionsRaiseInvalidDimensions : Prop :=
  ∀ s : State, ¬ Is86By48 s →
    (∀ f : Format, SourceReady s (srcBytesOf f) →
      exec f.instr s = .next (convertFailed s .invalidDimensions)) ∧
    (s.srcAddr.written = true → s.imgW.written = true → s.imgH.written = true → s.imgFmt.written = true →
      s.imgFmt.value.toNat < 65536 →
      (∀ f : Format, s.imgFmt.value = f.word → s.srcAddr.value.toNat + srcBytesOf f ≤ 4294967296) →
      exec .pxtConvert s = .next (convertFailed s .invalidDimensions))

/-- R90, R182, R142: with the right dimensions, an IMG_FMT[15:0] that is not one of the twelve values raises
UnsupportedFormat: TILE_VALID = 0, OK = 0, ERR = 2, and nothing else changes. -/
def Obligations.UnknownFormatsRaiseUnsupportedFormat : Prop :=
  ∀ s : State, s.srcAddr.written = true → s.imgW.written = true → s.imgH.written = true → s.imgFmt.written = true →
    Is86By48 s → s.imgFmt.value.toNat < 65536 → (∀ f : Format, s.imgFmt.value ≠ f.word) →
    exec .pxtConvert s = .next (convertFailed s .unsupportedFormat)

/-- R140, R87: with IMG_FMT one of the twelve values, a CMD write of 0x11 decodes to that format's row, PXT.CONVERT has that
row's effect, and where the operands are ready and the dimensions right it loads the tile with that format's pixels. -/
def Obligations.ConvertRunsTheSelectedFormat : Prop :=
  ∀ (s : State) (f : Format), s.imgFmt = { value := f.word, written := true } →
    decodeIssue 0x00000011 (some s.imgFmt.value) = .ok f.instr ∧
    exec .pxtConvert s = exec f.instr s ∧
    (SourceReady s (srcBytesOf f) → Is86By48 s →
      ∃ t, exec .pxtConvert s = .next (tileLoaded s t) ∧ t.wfTile = true ∧
        ∀ p, p < 4128 → tileWord t p = (pixelOf f s.cfg s.source p).toNat)

/-- R145: RGB8. -/
def Obligations.ConvertRgb8Words : Prop :=
  ∀ s : State, SourceReady s 12384 → Is86By48 s →
    ∃ t, exec .pxtConvertRgb8 s = .next (tileLoaded s t) ∧ ∀ p, p < 4128 →
      tileWord t p =
        wordOfFields (srcNat s (3 * p) / 8) (greenField 2 (srcNat s (3 * p + 1))) (srcNat s (3 * p + 2) / 8)

/-- R146: RGBA8; each channel is scaled by alpha / 255, truncating (R131). -/
def Obligations.ConvertRgba8Words : Prop :=
  ∀ s : State, SourceReady s 16512 → Is86By48 s →
    ∃ t, exec .pxtConvertRgba8 s = .next (tileLoaded s t) ∧ ∀ p, p < 4128 →
      tileWord t p =
        wordOfFields (srcNat s (4 * p) * srcNat s (4 * p + 3) / 255 / 8)
          (greenField 2 (srcNat s (4 * p + 1) * srcNat s (4 * p + 3) / 255))
          (srcNat s (4 * p + 2) * srcNat s (4 * p + 3) / 255 / 8)

/-- R147: RGB16; samples are big-endian (R58). -/
def Obligations.ConvertRgb16Words : Prop :=
  ∀ s : State, SourceReady s 24768 → Is86By48 s →
    ∃ t, exec .pxtConvertRgb16 s = .next (tileLoaded s t) ∧ ∀ p, p < 4128 →
      tileWord t p =
        wordOfFields ((256 * srcNat s (6 * p) + srcNat s (6 * p + 1)) / 2048)
          (greenField 10 (256 * srcNat s (6 * p + 2) + srcNat s (6 * p + 3)))
          ((256 * srcNat s (6 * p + 4) + srcNat s (6 * p + 5)) / 2048)

/-- R148: RGBA16; each channel is scaled by alpha / 65,535, truncating (R133). -/
def Obligations.ConvertRgba16Words : Prop :=
  ∀ s : State, SourceReady s 33024 → Is86By48 s →
    ∃ t, exec .pxtConvertRgba16 s = .next (tileLoaded s t) ∧ ∀ p, p < 4128 →
      tileWord t p =
        wordOfFields
          ((256 * srcNat s (8 * p) + srcNat s (8 * p + 1)) *
            (256 * srcNat s (8 * p + 6) + srcNat s (8 * p + 7)) / 65535 / 2048)
          (greenField 10 ((256 * srcNat s (8 * p + 2) + srcNat s (8 * p + 3)) *
            (256 * srcNat s (8 * p + 6) + srcNat s (8 * p + 7)) / 65535))
          ((256 * srcNat s (8 * p + 4) + srcNat s (8 * p + 5)) *
            (256 * srcNat s (8 * p + 6) + srcNat s (8 * p + 7)) / 65535 / 2048)

/-- R151: G1; pixel p is bit 7 − (p mod 8) of SRC[p div 8], 1 white and 0 black. -/
def Obligations.ConvertG1Words : Prop :=
  ∀ s : State, SourceReady s 516 → Is86By48 s →
    ∃ t, exec .pxtConvertG1 s = .next (tileLoaded s t) ∧ ∀ p, p < 4128 →
      tileWord t p = if (srcNat s (p / 8)).testBit (7 - p % 8) then 0xFFFF else 0x0000

/-- R152: G2; the 2-bit sample, most significant pair first, picks one of the four configured words, whatever they are. -/
def Obligations.ConvertG2Words : Prop :=
  ∀ s : State, SourceReady s 1032 → Is86By48 s →
    ∃ t, exec .pxtConvertG2 s = .next (tileLoaded s t) ∧ ∀ p, p < 4128 →
      some (tileWord t p) =
        [s.cfg.ramp.black.toNat, s.cfg.ramp.dark.toNat, s.cfg.ramp.mid.toNat, s.cfg.ramp.whitish.toNat][
          srcNat s (p / 4) / 4 ^ (3 - p % 4) % 4]?

/-- R153, R135: G4; the high nibble first, expanded to 5 and 6 bits by replication. -/
def Obligations.ConvertG4Words : Prop :=
  ∀ s : State, SourceReady s 2064 → Is86By48 s →
    ∃ t, exec .pxtConvertG4 s = .next (tileLoaded s t) ∧ ∀ p, p < 4128 →
      ∀ v, v = (if p % 2 = 0 then srcNat s (p / 2) / 16 else srcNat s (p / 2) % 16) →
      tileWord t p = wordOfFields (2 * v + v / 8) (4 * v + v / 4) (2 * v + v / 8)

/-- R154, R135: G8, the quirk: the 4-bit formula applied to all 8 bits, the fields cut to 5 and 6 bits. -/
def Obligations.ConvertG8Words : Prop :=
  ∀ s : State, SourceReady s 4128 → Is86By48 s →
    ∃ t, exec .pxtConvertG8 s = .next (tileLoaded s t) ∧ ∀ p, p < 4128 → ∀ v, v = srcNat s p →
      tileWord t p =
        wordOfFields ((2 * v ||| v / 8) % 32) ((4 * v ||| v / 4) % 64) ((2 * v ||| v / 8) % 32)

/-- R155: GA1; luminance bit then alpha bit, most significant pair first; the output is the configured GA_LOW(1, l, a), one of
the two words, whatever the configuration is. -/
def Obligations.ConvertGa1Words : Prop :=
  ∀ s : State, SourceReady s 1032 → Is86By48 s →
    ∃ t, exec .pxtConvertGa1 s = .next (tileLoaded s t) ∧ ∀ p, p < 4128 →
      some (tileWord t p) =
        (s.cfg.gaLow1[2 * (srcNat s (p / 4) / 2 ^ (7 - 2 * (p % 4)) % 2) + srcNat s (p / 4) / 2 ^ (6 - 2 * (p % 4)) % 2]?).map
          fun white => if white then 0xFFFF else 0x0000

/-- R156: GA2; 2-bit luminance then 2-bit alpha, high nibble first; the output is the configured GA_LOW(2, l, a), one of the
two words, whatever the configuration is. -/
def Obligations.ConvertGa2Words : Prop :=
  ∀ s : State, SourceReady s 2064 → Is86By48 s →
    ∃ t, exec .pxtConvertGa2 s = .next (tileLoaded s t) ∧ ∀ p, p < 4128 →
      some (tileWord t p) =
        (s.cfg.gaLow2[4 * (srcNat s (p / 2) / 4 ^ (3 - 2 * (p % 2)) % 4) + srcNat s (p / 2) / 4 ^ (2 - 2 * (p % 2)) % 4]?).map
          fun white => if white then 0xFFFF else 0x0000

/-- R157: GA4; both nibbles widened to 8 bits by replication (17 times the nibble), multiplied, divided by 255. -/
def Obligations.ConvertGa4Words : Prop :=
  ∀ s : State, SourceReady s 4128 → Is86By48 s →
    ∃ t, exec .pxtConvertGa4 s = .next (tileLoaded s t) ∧ ∀ p, p < 4128 →
      tileWord t p = greyWord (17 * (srcNat s p / 16) * (17 * (srcNat s p % 16)) / 255)

/-- R158: GA8; luminance times alpha, divided by 255. -/
def Obligations.ConvertGa8Words : Prop :=
  ∀ s : State, SourceReady s 8256 → Is86By48 s →
    ∃ t, exec .pxtConvertGa8 s = .next (tileLoaded s t) ∧ ∀ p, p < 4128 →
      tileWord t p = greyWord (srcNat s (2 * p) * srcNat s (2 * p + 1) / 255)

/-- R143: the TILE content after a successful conversion is a function of the format, the SRC_BYTES source bytes, GRAY2_RAMP
and GA_LOW, and of nothing else: not of the old tile, the checksum state or the value of SRC_ADDR. -/
def Obligations.ConversionDependsOnItsSourceOnly : Prop :=
  ∀ (f : Format) (s s' t t' : State), exec f.instr s = .next t → t.status.ok = true →
    exec f.instr s' = .next t' → t'.status.ok = true →
    s.cfg.ramp = s'.cfg.ramp → s.cfg.gaLow1 = s'.cfg.gaLow1 → s.cfg.gaLow2 = s'.cfg.gaLow2 →
    (∀ i, i < srcBytesOf f → srcNat s i = srcNat s' i) → t.tile = t'.tile

/-- R160 ("[derived: from rules R145 to R158]"), but for the sentence on red and blue in the case of G2, whose words are configured: G1, GA1 and GA2 produce only 0 and
0xFFFF; G4, G8, GA4 and GA8 have red = blue; no green field of an RGB format, GA4 or GA8 is an even number of at least 32. -/
def Obligations.OutputRanges : Prop :=
  ∀ (f : Format) (s t : State), exec f.instr s = .next t → t.status.ok = true → ∀ p w, p < 4128 → w = tileWord t.tile p →
    (f ∈ [Format.g1, .ga1, .ga2] → w = 0 ∨ w = 0xFFFF) ∧
    (f = .g2 → w = s.cfg.ramp.black.toNat ∨ w = s.cfg.ramp.dark.toNat ∨ w = s.cfg.ramp.mid.toNat ∨
      w = s.cfg.ramp.whitish.toNat) ∧
    (f ∈ [Format.g4, .g8, .ga4, .ga8] → w / 2048 = w % 32) ∧
    (f ∈ [Format.rgb8, .rgba8, .rgb16, .rgba16, .ga4, .ga8] → w / 32 % 64 < 32 ∨ w / 32 % 2 = 1)
end

