-- ==== Sys2Proof/Laws/Decode.lean ====
section
/-! SUPPORT. The decoder: which words a row answers to, and that only the six command words decode at CMD. -/

namespace Sys2Proof

theorem Format.instr_injective {f g : Format} (h : f.instr = g.instr) : f = g := by
  cases f <;> cases g <;> first | rfl | cases h

/-- A command word that decodes is one of six (R81). -/
theorem decodeCommand_ok {w : Word} {i : Instr} (h : decodeCommand w = .ok i) :
    (w = 1 ∧ i = .blkReset) ∨ (w = 2 ∧ i = .csaWrite) ∨ (w = 3 ∧ i = .csaWrtile) ∨ (w = 4 ∧ i = .csaEmit) ∨
      (w = 16 ∧ i = .pxtLoadraw) ∨ (w = 17 ∧ i = .pxtConvert) := by
  unfold decodeCommand at h
  split at h
  case h_1 hw => exact .inl ⟨BitVec.eq_of_toNat_eq hw, by cases h; rfl⟩
  case h_2 hw => exact .inr (.inl ⟨BitVec.eq_of_toNat_eq hw, by cases h; rfl⟩)
  case h_3 hw => exact .inr (.inr (.inl ⟨BitVec.eq_of_toNat_eq hw, by cases h; rfl⟩))
  case h_4 hw => exact .inr (.inr (.inr (.inl ⟨BitVec.eq_of_toNat_eq hw, by cases h; rfl⟩)))
  case h_5 hw => exact .inr (.inr (.inr (.inr (.inl ⟨BitVec.eq_of_toNat_eq hw, by cases h; rfl⟩))))
  case h_6 hw => exact .inr (.inr (.inr (.inr (.inr ⟨BitVec.eq_of_toNat_eq hw, by cases h; rfl⟩))))
  case h_7 => cases h

/-- A format-F word decodes to the row of the format it selects. -/
theorem decodeFormat_ok {w : Word} {i : Instr} (h : decodeFormat w = .ok i) :
    formatReserved w = 0 ∧ ∃ f, formatOf w = some f ∧ i = f.instr := by
  unfold decodeFormat at h
  split at h
  · cases h
  · rename_i hr
    split at h
    · cases h
      exact ⟨by simpa using hr, _, ‹_›, rfl⟩
    · cases h

/-- What a word written to CMD can decode to (R87). -/
theorem decodeIssue_ok {w : Word} {fmt : Option Word} {i : Instr} (h : decodeIssue w fmt = .ok i) :
    decodeCommand w = .ok i ∨ (w = 17 ∧ ∃ v, fmt = some v ∧ decodeFormat v = .ok i) := by
  unfold decodeIssue at h
  split at h
  · rename_i v hc
    split at h
    · rename_i j hf
      cases h
      obtain h | h | h | h | h | h := decodeCommand_ok hc
      all_goals first | (cases h.2; done) | skip
      exact .inr ⟨h.1, v, rfl, hf⟩
    · cases h
      exact .inl hc
  · exact .inl h

theorem decodeIssue_blkReset {w : Word} {fmt : Option Word} (h : decodeIssue w fmt = .ok .blkReset) : w = 1 := by
  obtain h | ⟨-, v, -, h⟩ := decodeIssue_ok h
  · obtain h | h | h | h | h | h := decodeCommand_ok h
    · exact h.1
    all_goals cases h.2
  · obtain ⟨-, f, -, hf⟩ := decodeFormat_ok h
    cases f <;> cases hf

theorem decodeRead_ok {w : Word} {i : Instr} (h : decodeRead w = .ok i) : w = 2 ∧ i = .csaRead := by
  unfold decodeRead at h
  split at h
  · cases h
    exact ⟨‹_›, rfl⟩
  · cases h

theorem regOfNumber_cmd {n : Nat} (h : regOfNumber n = some .cmd) : n = 0 := by
  unfold regOfNumber at h
  split at h <;> first | rfl | cases h

@[simp] theorem regOfNumber_number (r : Reg) : regOfNumber r.number = some r := by cases r <;> rfl

/-! ### IMG_FMT words (R84, R85) -/

/-- A word is its three fields. -/
theorem formatFields_toNat (w : Word) :
    w.toNat = (formatReserved w).toNat * 65536 + (modelField w).toNat * 256 + (depthField w).toNat := by
  have := w.isLt
  simp only [formatReserved, modelField, depthField, BitVec.extractLsb'_toNat, Nat.shiftRight_eq_div_pow]
  omega

theorem formatReserved_eq_zero (w : Word) : formatReserved w = 0 ↔ w.toNat < 65536 := by
  have hs := formatFields_toNat w
  have h1 := (modelField w).isLt
  have h2 := (depthField w).isLt
  rw [← BitVec.toNat_inj, show (0 : Half).toNat = 0 by rfl]
  omega

/-- A word with its reserved bits 0 that selects a format is that format's word. -/
theorem eq_word_of_formatOf {w : Word} {f : Format} (hr : formatReserved w = 0) (h : formatOf w = some f) : w = f.word := by
  have hs := formatFields_toNat w
  rw [hr] at hs
  unfold formatOf lookupFormat at h
  split at h
  all_goals first | (cases h; done) | skip
  all_goals
    rename_i h1 h2
    cases h
    apply BitVec.eq_of_toNat_eq
    rw [hs, h1, h2]
    rfl

@[simp] theorem formatReserved_word (f : Format) : formatReserved f.word = 0 := by cases f <;> rfl

@[simp] theorem formatOf_word (f : Format) : formatOf f.word = some f := by cases f <;> rfl

@[simp] theorem decodeFormat_word (f : Format) : decodeFormat f.word = .ok f.instr := by cases f <;> rfl

end Sys2Proof
end

