-- ==== Sys2Proof/Laws/Memory.lean ====
section
/-! SUPPORT. Memory: read after write, the canonical form kept by every operation, whole-buffer loads, byte sequences. -/

namespace Sys2Proof.Machine

@[simp] theorem Memory.read_nil (a : Nat) : Memory.read [] a = 0 := rfl

/-- In canonical form from `lo` on, nothing below `lo` is listed. -/
theorem Memory.read_below {hi lo : Nat} {m : Memory} (h : m.wfIn hi lo = true) {a : Nat} (ha : a < lo) : m.read a = 0 := by
  induction m generalizing lo with
  | nil => rfl
  | cons c rest ih =>
    obtain ⟨k, v⟩ := c
    simp only [Memory.wfIn, Bool.and_eq_true, decide_eq_true_eq] at h
    obtain ⟨⟨⟨hlo, -⟩, -⟩, hrest⟩ := h
    rw [Memory.read, if_neg (by omega)]
    exact ih hrest (by omega)

theorem Memory.wfIn_mono {hi lo lo' : Nat} {m : Memory} (h : m.wfIn hi lo = true) (hl : lo' ≤ lo) : m.wfIn hi lo' = true := by
  cases m with
  | nil => rfl
  | cons c rest =>
    obtain ⟨k, v⟩ := c
    simp only [Memory.wfIn, Bool.and_eq_true, decide_eq_true_eq] at h ⊢
    exact ⟨⟨⟨by omega, h.1.1.2⟩, h.1.2⟩, h.2⟩

/-- A store inside the space keeps the canonical form. -/
theorem Memory.wfIn_write {hi lo a : Nat} {m : Memory} {b : Byte} (h : m.wfIn hi lo = true) (hlo : lo ≤ a) (hhi : a < hi) :
    (m.write a b).wfIn hi lo = true := by
  induction m generalizing lo with
  | nil =>
    unfold Memory.write
    split
    · rfl
    · simp_all [Memory.wfIn]
  | cons c rest ih =>
    obtain ⟨k, v⟩ := c
    simp only [Memory.wfIn, Bool.and_eq_true, decide_eq_true_eq] at h
    obtain ⟨⟨⟨hk, hkhi⟩, hv⟩, hrest⟩ := h
    unfold Memory.write
    split
    · split
      · simp_all [Memory.wfIn]
      · simp_all [Memory.wfIn]
    · split
      · subst a
        split
        · exact Memory.wfIn_mono hrest (by omega)
        · simp_all [Memory.wfIn]
      · simp only [Memory.wfIn, Bool.and_eq_true, decide_eq_true_eq]
        exact ⟨⟨⟨hk, hkhi⟩, hv⟩, ih hrest (by omega)⟩

/-- Read after write, at the same place and at any other. -/
theorem Memory.read_write {hi lo : Nat} {m : Memory} (h : m.wfIn hi lo = true) (a : Nat) (b : Byte) (x : Nat) :
    (m.write a b).read x = if x = a then b else m.read x := by
  induction m generalizing lo with
  | nil =>
    unfold Memory.write
    split
    · simp_all [Memory.read, unlistedByte]
    · simp only [Memory.read]
      split <;> split <;> first | rfl | omega
  | cons c rest ih =>
    obtain ⟨k, v⟩ := c
    simp only [Memory.wfIn, Bool.and_eq_true, decide_eq_true_eq] at h
    obtain ⟨-, hrest⟩ := h
    have below : ∀ y, y ≤ k → Memory.read rest y = 0 := fun y hy => Memory.read_below hrest (Nat.lt_succ_of_le hy)
    unfold Memory.write
    split
    · split
      · split
        · subst x
          rw [Memory.read, if_neg (by omega), below a (by omega)]
          simp_all [unlistedByte]
        · rfl
      · conv => lhs; unfold Memory.read
        split <;> split <;> first | rfl | omega
    · split
      · subst a
        split
        · conv => rhs; unfold Memory.read
          split
          · subst x
            rw [below k (by omega)]
            simp_all [unlistedByte]
          · rw [if_neg (by omega)]
        · conv => lhs; unfold Memory.read
          split
          · rw [if_pos (by omega)]
          · rw [if_neg (by omega)]
            conv => rhs; unfold Memory.read
            rw [if_neg (by omega)]
      · unfold Memory.read
        split
        · rw [if_neg (by omega)]
        · exact ih hrest

/-- A whole-buffer load reads back as the bytes loaded, and 0 outside them. -/
theorem Memory.read_ofBytes (a : Nat) (l : List Byte) (x : Nat) :
    (Memory.ofBytes a l).read x = if a ≤ x then l.getD (x - a) 0 else 0 := by
  induction l generalizing a with
  | nil => simp [Memory.ofBytes]
  | cons b rest ih =>
    have hstep : (if a + 1 ≤ x then rest.getD (x - (a + 1)) 0 else 0 : Byte) =
        if a = x then 0 else if a ≤ x then (b :: rest).getD (x - a) 0 else 0 := by
      by_cases h : a + 1 ≤ x
      · obtain ⟨d, rfl⟩ := Nat.exists_eq_add_of_le h
        rw [if_pos h, if_neg (by omega), if_pos (by omega), show a + 1 + d - (a + 1) = d by omega,
          show a + 1 + d - a = d + 1 by omega]
        rfl
      · rw [if_neg h]
        split
        · rfl
        · rw [if_neg (by omega)]
    unfold Memory.ofBytes
    split
    · rename_i hb
      rw [ih, hstep]
      split
      · subst x
        simp_all [unlistedByte]
      · rfl
    · rw [Memory.read, ih, hstep]
      split
      · subst x
        simp
      · rfl

/-- A whole-buffer load inside the space is in canonical form. -/
theorem Memory.wfIn_ofBytes (hi a : Nat) (l : List Byte) (h : a + l.length ≤ hi) : (Memory.ofBytes a l).wfIn hi a = true := by
  induction l generalizing a with
  | nil => rfl
  | cons b rest ih =>
    have hr := ih (a + 1) (by simp at h; omega)
    unfold Memory.ofBytes
    split
    · exact Memory.wfIn_mono hr (by omega)
    · simp only [List.length_cons] at h
      simp only [Memory.wfIn, Bool.and_eq_true, decide_eq_true_eq]
      exact ⟨⟨⟨le_refl a, by omega⟩, by simpa using ‹¬_›⟩, hr⟩

@[simp] theorem Memory.readBytes_length (m : Memory) (a n : Nat) : (m.readBytes a n).length = n := by
  simp [Memory.readBytes]

theorem Memory.readBytes_getD (m : Memory) (a n i : Nat) (h : i < n) : (m.readBytes a n).getD i 0 = m.read (a + i) := by
  simp [Memory.readBytes, List.getD, h]

/-- A byte sequence read in two parts. -/
theorem Memory.readBytes_add (m : Memory) (a n k : Nat) :
    m.readBytes a (n + k) = m.readBytes a n ++ m.readBytes (a + n) k := by
  simp [Memory.readBytes, List.range_add, Nat.add_assoc, Function.comp_def]

/-- Two bytes per pixel. -/
theorem rasterLength (pixel : Nat → Half) (n : Nat) : ((List.range n).flatMap fun p => le16 (pixel p)).length = 2 * n := by
  induction n with
  | zero => rfl
  | succ n ih =>
    rw [List.range_succ, List.flatMap_append, List.length_append, ih]
    rfl

theorem rasterBytes_length (pixel : Nat → Half) : (rasterBytes pixel).length = 8256 := rasterLength pixel 4128

/-- Pixel p lies at bytes 2p (low) and 2p + 1 (high). -/
theorem raster_getD (pixel : Nat → Half) (n p : Nat) (h : p < n) :
    ((List.range n).flatMap fun p => le16 (pixel p)).getD (2 * p) 0 = (pixel p).extractLsb' 0 8 ∧
      ((List.range n).flatMap fun p => le16 (pixel p)).getD (2 * p + 1) 0 = (pixel p).extractLsb' 8 8 := by
  induction n with
  | zero => omega
  | succ n ih =>
    rw [List.range_succ, List.flatMap_append]
    have hlen := rasterLength pixel n
    by_cases hp : p < n
    · rw [List.getD_append _ _ _ _ (by omega), List.getD_append _ _ _ _ (by omega)]
      exact ih hp
    · obtain rfl : p = n := by omega
      rw [List.getD_append_right _ _ _ _ (by omega), List.getD_append_right _ _ _ _ (by omega), hlen,
        show 2 * p - 2 * p = 0 by omega, show 2 * p + 1 - 2 * p = 1 by omega]
      exact ⟨rfl, rfl⟩

theorem rasterBytes_getD (pixel : Nat → Half) (p : Nat) (h : p < 4128) :
    (rasterBytes pixel).getD (2 * p) 0 = (pixel p).extractLsb' 0 8 ∧
      (rasterBytes pixel).getD (2 * p + 1) 0 = (pixel p).extractLsb' 8 8 := raster_getD pixel 4128 p h

end Sys2Proof.Machine
end

