-- ==== Sys2Proof/Laws/State.lean ====
section
/-! SUPPORT. What each field of State is after each shared update, one lemma per field per update, so that no later proof
unfolds a record update. -/

namespace Sys2Proof.Machine

/-! ### STATUS -/

@[simp] theorem Status.succeed_ok (st : Status) : st.succeed.ok = true := rfl
@[simp] theorem Status.succeed_fail (st : Status) : st.succeed.fail = st.fail := rfl
@[simp] theorem Status.succeed_tileValid (st : Status) : st.succeed.tileValid = st.tileValid := rfl
@[simp] theorem Status.succeed_err (st : Status) : st.succeed.err = .noError := rfl
@[simp] theorem Status.raise_ok (e : ErrCode) (st : Status) : (st.raise e).ok = false := rfl
@[simp] theorem Status.raise_fail (e : ErrCode) (st : Status) : (st.raise e).fail = st.fail := rfl
@[simp] theorem Status.raise_tileValid (e : ErrCode) (st : Status) : (st.raise e).tileValid = st.tileValid := rfl
@[simp] theorem Status.raise_err (e : ErrCode) (st : Status) : (st.raise e).err = e := rfl
@[simp] theorem Status.withTileValid_ok (v : Bool) (st : Status) : (st.withTileValid v).ok = st.ok := rfl
@[simp] theorem Status.withTileValid_fail (v : Bool) (st : Status) : (st.withTileValid v).fail = st.fail := rfl
@[simp] theorem Status.withTileValid_tileValid (v : Bool) (st : Status) : (st.withTileValid v).tileValid = v := rfl
@[simp] theorem Status.withTileValid_err (v : Bool) (st : Status) : (st.withTileValid v).err = st.err := rfl
@[simp] theorem Status.withFail_ok (st : Status) : st.withFail.ok = st.ok := rfl
@[simp] theorem Status.withFail_fail (st : Status) : st.withFail.fail = true := rfl
@[simp] theorem Status.withFail_tileValid (st : Status) : st.withFail.tileValid = st.tileValid := rfl
@[simp] theorem Status.withFail_err (st : Status) : st.withFail.err = st.err := rfl

/-! ### raise -/

@[simp] theorem State.raise_crc (e : ErrCode) (s : State) : (s.raise e).crc = s.crc := rfl
@[simp] theorem State.raise_status (e : ErrCode) (s : State) : (s.raise e).status = s.status.raise e := rfl
@[simp] theorem State.raise_wrDone (e : ErrCode) (s : State) : (s.raise e).wrDone = s.wrDone := rfl
@[simp] theorem State.raise_wrAddr (e : ErrCode) (s : State) : (s.raise e).wrAddr = s.wrAddr := rfl
@[simp] theorem State.raise_wrLen (e : ErrCode) (s : State) : (s.raise e).wrLen = s.wrLen := rfl
@[simp] theorem State.raise_srcAddr (e : ErrCode) (s : State) : (s.raise e).srcAddr = s.srcAddr := rfl
@[simp] theorem State.raise_imgW (e : ErrCode) (s : State) : (s.raise e).imgW = s.imgW := rfl
@[simp] theorem State.raise_imgH (e : ErrCode) (s : State) : (s.raise e).imgH = s.imgH := rfl
@[simp] theorem State.raise_imgFmt (e : ErrCode) (s : State) : (s.raise e).imgFmt = s.imgFmt := rfl
@[simp] theorem State.raise_tile (e : ErrCode) (s : State) : (s.raise e).tile = s.tile := rfl
@[simp] theorem State.raise_host (e : ErrCode) (s : State) : (s.raise e).host = s.host := rfl
@[simp] theorem State.raise_out (e : ErrCode) (s : State) : (s.raise e).out = s.out := rfl
@[simp] theorem State.raise_cfg (e : ErrCode) (s : State) : (s.raise e).cfg = s.cfg := rfl
@[simp] theorem State.raise_pending (e : ErrCode) (s : State) : (s.raise e).pending = s.pending := rfl
@[simp] theorem State.raise_readData (e : ErrCode) (s : State) : (s.raise e).readData = s.readData := rfl
@[simp] theorem State.raise_sinkAnswers (e : ErrCode) (s : State) : (s.raise e).sinkAnswers = s.sinkAnswers := rfl
@[simp] theorem State.raise_draws (e : ErrCode) (s : State) : (s.raise e).draws = s.draws := rfl

/-! ### succeed -/

@[simp] theorem State.succeed_crc (s : State) : (s.succeed).crc = s.crc := rfl
@[simp] theorem State.succeed_status (s : State) : (s.succeed).status = s.status.succeed := rfl
@[simp] theorem State.succeed_wrDone (s : State) : (s.succeed).wrDone = s.wrDone := rfl
@[simp] theorem State.succeed_wrAddr (s : State) : (s.succeed).wrAddr = s.wrAddr := rfl
@[simp] theorem State.succeed_wrLen (s : State) : (s.succeed).wrLen = s.wrLen := rfl
@[simp] theorem State.succeed_srcAddr (s : State) : (s.succeed).srcAddr = s.srcAddr := rfl
@[simp] theorem State.succeed_imgW (s : State) : (s.succeed).imgW = s.imgW := rfl
@[simp] theorem State.succeed_imgH (s : State) : (s.succeed).imgH = s.imgH := rfl
@[simp] theorem State.succeed_imgFmt (s : State) : (s.succeed).imgFmt = s.imgFmt := rfl
@[simp] theorem State.succeed_tile (s : State) : (s.succeed).tile = s.tile := rfl
@[simp] theorem State.succeed_host (s : State) : (s.succeed).host = s.host := rfl
@[simp] theorem State.succeed_out (s : State) : (s.succeed).out = s.out := rfl
@[simp] theorem State.succeed_cfg (s : State) : (s.succeed).cfg = s.cfg := rfl
@[simp] theorem State.succeed_pending (s : State) : (s.succeed).pending = s.pending := rfl
@[simp] theorem State.succeed_readData (s : State) : (s.succeed).readData = s.readData := rfl
@[simp] theorem State.succeed_sinkAnswers (s : State) : (s.succeed).sinkAnswers = s.sinkAnswers := rfl
@[simp] theorem State.succeed_draws (s : State) : (s.succeed).draws = s.draws := rfl

/-! ### returnWord -/

@[simp] theorem State.returnWord_crc (v : Word) (s : State) : (s.returnWord v).crc = s.crc := rfl
@[simp] theorem State.returnWord_status (v : Word) (s : State) : (s.returnWord v).status = s.status := rfl
@[simp] theorem State.returnWord_wrDone (v : Word) (s : State) : (s.returnWord v).wrDone = s.wrDone := rfl
@[simp] theorem State.returnWord_wrAddr (v : Word) (s : State) : (s.returnWord v).wrAddr = s.wrAddr := rfl
@[simp] theorem State.returnWord_wrLen (v : Word) (s : State) : (s.returnWord v).wrLen = s.wrLen := rfl
@[simp] theorem State.returnWord_srcAddr (v : Word) (s : State) : (s.returnWord v).srcAddr = s.srcAddr := rfl
@[simp] theorem State.returnWord_imgW (v : Word) (s : State) : (s.returnWord v).imgW = s.imgW := rfl
@[simp] theorem State.returnWord_imgH (v : Word) (s : State) : (s.returnWord v).imgH = s.imgH := rfl
@[simp] theorem State.returnWord_imgFmt (v : Word) (s : State) : (s.returnWord v).imgFmt = s.imgFmt := rfl
@[simp] theorem State.returnWord_tile (v : Word) (s : State) : (s.returnWord v).tile = s.tile := rfl
@[simp] theorem State.returnWord_host (v : Word) (s : State) : (s.returnWord v).host = s.host := rfl
@[simp] theorem State.returnWord_out (v : Word) (s : State) : (s.returnWord v).out = s.out := rfl
@[simp] theorem State.returnWord_cfg (v : Word) (s : State) : (s.returnWord v).cfg = s.cfg := rfl
@[simp] theorem State.returnWord_pending (v : Word) (s : State) : (s.returnWord v).pending = s.pending := rfl
@[simp] theorem State.returnWord_readData (v : Word) (s : State) : (s.returnWord v).readData = v := rfl
@[simp] theorem State.returnWord_sinkAnswers (v : Word) (s : State) : (s.returnWord v).sinkAnswers = s.sinkAnswers := rfl
@[simp] theorem State.returnWord_draws (v : Word) (s : State) : (s.returnWord v).draws = s.draws := rfl

/-! ### returnFree -/

@[simp] theorem State.returnFree_crc (v : Word) (s : State) : (s.returnFree v).crc = s.crc := rfl
@[simp] theorem State.returnFree_status (v : Word) (s : State) : (s.returnFree v).status = s.status := rfl
@[simp] theorem State.returnFree_wrDone (v : Word) (s : State) : (s.returnFree v).wrDone = s.wrDone := rfl
@[simp] theorem State.returnFree_wrAddr (v : Word) (s : State) : (s.returnFree v).wrAddr = s.wrAddr := rfl
@[simp] theorem State.returnFree_wrLen (v : Word) (s : State) : (s.returnFree v).wrLen = s.wrLen := rfl
@[simp] theorem State.returnFree_srcAddr (v : Word) (s : State) : (s.returnFree v).srcAddr = s.srcAddr := rfl
@[simp] theorem State.returnFree_imgW (v : Word) (s : State) : (s.returnFree v).imgW = s.imgW := rfl
@[simp] theorem State.returnFree_imgH (v : Word) (s : State) : (s.returnFree v).imgH = s.imgH := rfl
@[simp] theorem State.returnFree_imgFmt (v : Word) (s : State) : (s.returnFree v).imgFmt = s.imgFmt := rfl
@[simp] theorem State.returnFree_tile (v : Word) (s : State) : (s.returnFree v).tile = s.tile := rfl
@[simp] theorem State.returnFree_host (v : Word) (s : State) : (s.returnFree v).host = s.host := rfl
@[simp] theorem State.returnFree_out (v : Word) (s : State) : (s.returnFree v).out = s.out := rfl
@[simp] theorem State.returnFree_cfg (v : Word) (s : State) : (s.returnFree v).cfg = s.cfg := rfl
@[simp] theorem State.returnFree_pending (v : Word) (s : State) : (s.returnFree v).pending = s.pending := rfl
@[simp] theorem State.returnFree_readData (v : Word) (s : State) : (s.returnFree v).readData = v := rfl
@[simp] theorem State.returnFree_sinkAnswers (v : Word) (s : State) : (s.returnFree v).sinkAnswers = s.sinkAnswers := rfl
@[simp] theorem State.returnFree_draws (v : Word) (s : State) : (s.returnFree v).draws = s.draws + 1 := rfl

/-! ### sinkTake -/

@[simp] theorem State.sinkTake_crc (l : List Byte) (k : Nat) (s : State) : (s.sinkTake l k).crc = s.crc := rfl
@[simp] theorem State.sinkTake_status (l : List Byte) (k : Nat) (s : State) : (s.sinkTake l k).status = s.status := rfl
@[simp] theorem State.sinkTake_wrDone (l : List Byte) (k : Nat) (s : State) : (s.sinkTake l k).wrDone = s.wrDone := rfl
@[simp] theorem State.sinkTake_wrAddr (l : List Byte) (k : Nat) (s : State) : (s.sinkTake l k).wrAddr = s.wrAddr := rfl
@[simp] theorem State.sinkTake_wrLen (l : List Byte) (k : Nat) (s : State) : (s.sinkTake l k).wrLen = s.wrLen := rfl
@[simp] theorem State.sinkTake_srcAddr (l : List Byte) (k : Nat) (s : State) : (s.sinkTake l k).srcAddr = s.srcAddr := rfl
@[simp] theorem State.sinkTake_imgW (l : List Byte) (k : Nat) (s : State) : (s.sinkTake l k).imgW = s.imgW := rfl
@[simp] theorem State.sinkTake_imgH (l : List Byte) (k : Nat) (s : State) : (s.sinkTake l k).imgH = s.imgH := rfl
@[simp] theorem State.sinkTake_imgFmt (l : List Byte) (k : Nat) (s : State) : (s.sinkTake l k).imgFmt = s.imgFmt := rfl
@[simp] theorem State.sinkTake_tile (l : List Byte) (k : Nat) (s : State) : (s.sinkTake l k).tile = s.tile := rfl
@[simp] theorem State.sinkTake_host (l : List Byte) (k : Nat) (s : State) : (s.sinkTake l k).host = s.host := rfl
@[simp] theorem State.sinkTake_out (l : List Byte) (k : Nat) (s : State) : (s.sinkTake l k).out = s.out ++ l.take k := rfl
@[simp] theorem State.sinkTake_cfg (l : List Byte) (k : Nat) (s : State) : (s.sinkTake l k).cfg = s.cfg := rfl
@[simp] theorem State.sinkTake_pending (l : List Byte) (k : Nat) (s : State) : (s.sinkTake l k).pending = s.pending := rfl
@[simp] theorem State.sinkTake_readData (l : List Byte) (k : Nat) (s : State) : (s.sinkTake l k).readData = s.readData := rfl
@[simp] theorem State.sinkTake_sinkAnswers (l : List Byte) (k : Nat) (s : State) : (s.sinkTake l k).sinkAnswers = s.sinkAnswers.tail := rfl
@[simp] theorem State.sinkTake_draws (l : List Byte) (k : Nat) (s : State) : (s.sinkTake l k).draws = s.draws + 1 := rfl

/-! ### account -/

@[simp] theorem State.account_crc (l : List Byte) (k : Nat) (s : State) : (s.account l k).crc = crcUpdate s.cfg.polyR s.crc (l.take k) := rfl
@[simp] theorem State.account_status (l : List Byte) (k : Nat) (s : State) : (s.account l k).status = s.status := rfl
@[simp] theorem State.account_wrDone (l : List Byte) (k : Nat) (s : State) : (s.account l k).wrDone = BitVec.ofNat 32 k := rfl
@[simp] theorem State.account_wrAddr (l : List Byte) (k : Nat) (s : State) : (s.account l k).wrAddr = s.wrAddr := rfl
@[simp] theorem State.account_wrLen (l : List Byte) (k : Nat) (s : State) : (s.account l k).wrLen = s.wrLen := rfl
@[simp] theorem State.account_srcAddr (l : List Byte) (k : Nat) (s : State) : (s.account l k).srcAddr = s.srcAddr := rfl
@[simp] theorem State.account_imgW (l : List Byte) (k : Nat) (s : State) : (s.account l k).imgW = s.imgW := rfl
@[simp] theorem State.account_imgH (l : List Byte) (k : Nat) (s : State) : (s.account l k).imgH = s.imgH := rfl
@[simp] theorem State.account_imgFmt (l : List Byte) (k : Nat) (s : State) : (s.account l k).imgFmt = s.imgFmt := rfl
@[simp] theorem State.account_tile (l : List Byte) (k : Nat) (s : State) : (s.account l k).tile = s.tile := rfl
@[simp] theorem State.account_host (l : List Byte) (k : Nat) (s : State) : (s.account l k).host = s.host := rfl
@[simp] theorem State.account_out (l : List Byte) (k : Nat) (s : State) : (s.account l k).out = s.out := rfl
@[simp] theorem State.account_cfg (l : List Byte) (k : Nat) (s : State) : (s.account l k).cfg = s.cfg := rfl
@[simp] theorem State.account_pending (l : List Byte) (k : Nat) (s : State) : (s.account l k).pending = s.pending := rfl
@[simp] theorem State.account_readData (l : List Byte) (k : Nat) (s : State) : (s.account l k).readData = s.readData := rfl
@[simp] theorem State.account_sinkAnswers (l : List Byte) (k : Nat) (s : State) : (s.account l k).sinkAnswers = s.sinkAnswers := rfl
@[simp] theorem State.account_draws (l : List Byte) (k : Nat) (s : State) : (s.account l k).draws = s.draws := rfl

/-! ### loadTile -/

@[simp] theorem State.loadTile_crc (l : List Byte) (s : State) : (s.loadTile l).crc = s.crc := rfl
@[simp] theorem State.loadTile_status (l : List Byte) (s : State) : (s.loadTile l).status = (s.status.withTileValid true).succeed := rfl
@[simp] theorem State.loadTile_wrDone (l : List Byte) (s : State) : (s.loadTile l).wrDone = s.wrDone := rfl
@[simp] theorem State.loadTile_wrAddr (l : List Byte) (s : State) : (s.loadTile l).wrAddr = s.wrAddr := rfl
@[simp] theorem State.loadTile_wrLen (l : List Byte) (s : State) : (s.loadTile l).wrLen = s.wrLen := rfl
@[simp] theorem State.loadTile_srcAddr (l : List Byte) (s : State) : (s.loadTile l).srcAddr = s.srcAddr := rfl
@[simp] theorem State.loadTile_imgW (l : List Byte) (s : State) : (s.loadTile l).imgW = s.imgW := rfl
@[simp] theorem State.loadTile_imgH (l : List Byte) (s : State) : (s.loadTile l).imgH = s.imgH := rfl
@[simp] theorem State.loadTile_imgFmt (l : List Byte) (s : State) : (s.loadTile l).imgFmt = s.imgFmt := rfl
@[simp] theorem State.loadTile_tile (l : List Byte) (s : State) : (s.loadTile l).tile = Memory.ofBytes 0 l := rfl
@[simp] theorem State.loadTile_host (l : List Byte) (s : State) : (s.loadTile l).host = s.host := rfl
@[simp] theorem State.loadTile_out (l : List Byte) (s : State) : (s.loadTile l).out = s.out := rfl
@[simp] theorem State.loadTile_cfg (l : List Byte) (s : State) : (s.loadTile l).cfg = s.cfg := rfl
@[simp] theorem State.loadTile_pending (l : List Byte) (s : State) : (s.loadTile l).pending = s.pending := rfl
@[simp] theorem State.loadTile_readData (l : List Byte) (s : State) : (s.loadTile l).readData = s.readData := rfl
@[simp] theorem State.loadTile_sinkAnswers (l : List Byte) (s : State) : (s.loadTile l).sinkAnswers = s.sinkAnswers := rfl
@[simp] theorem State.loadTile_draws (l : List Byte) (s : State) : (s.loadTile l).draws = s.draws := rfl

/-! ### failTile -/

@[simp] theorem State.failTile_crc (e : ErrCode) (s : State) : (s.failTile e).crc = s.crc := rfl
@[simp] theorem State.failTile_status (e : ErrCode) (s : State) : (s.failTile e).status = (s.status.withTileValid false).raise e := rfl
@[simp] theorem State.failTile_wrDone (e : ErrCode) (s : State) : (s.failTile e).wrDone = s.wrDone := rfl
@[simp] theorem State.failTile_wrAddr (e : ErrCode) (s : State) : (s.failTile e).wrAddr = s.wrAddr := rfl
@[simp] theorem State.failTile_wrLen (e : ErrCode) (s : State) : (s.failTile e).wrLen = s.wrLen := rfl
@[simp] theorem State.failTile_srcAddr (e : ErrCode) (s : State) : (s.failTile e).srcAddr = s.srcAddr := rfl
@[simp] theorem State.failTile_imgW (e : ErrCode) (s : State) : (s.failTile e).imgW = s.imgW := rfl
@[simp] theorem State.failTile_imgH (e : ErrCode) (s : State) : (s.failTile e).imgH = s.imgH := rfl
@[simp] theorem State.failTile_imgFmt (e : ErrCode) (s : State) : (s.failTile e).imgFmt = s.imgFmt := rfl
@[simp] theorem State.failTile_tile (e : ErrCode) (s : State) : (s.failTile e).tile = s.tile := rfl
@[simp] theorem State.failTile_host (e : ErrCode) (s : State) : (s.failTile e).host = s.host := rfl
@[simp] theorem State.failTile_out (e : ErrCode) (s : State) : (s.failTile e).out = s.out := rfl
@[simp] theorem State.failTile_cfg (e : ErrCode) (s : State) : (s.failTile e).cfg = s.cfg := rfl
@[simp] theorem State.failTile_pending (e : ErrCode) (s : State) : (s.failTile e).pending = s.pending := rfl
@[simp] theorem State.failTile_readData (e : ErrCode) (s : State) : (s.failTile e).readData = s.readData := rfl
@[simp] theorem State.failTile_sinkAnswers (e : ErrCode) (s : State) : (s.failTile e).sinkAnswers = s.sinkAnswers := rfl
@[simp] theorem State.failTile_draws (e : ErrCode) (s : State) : (s.failTile e).draws = s.draws := rfl

/-! ### hostStore -/

@[simp] theorem State.hostStore_crc (a : Word) (b : Byte) (s : State) : (s.hostStore a b).crc = s.crc := rfl
@[simp] theorem State.hostStore_status (a : Word) (b : Byte) (s : State) : (s.hostStore a b).status = s.status := rfl
@[simp] theorem State.hostStore_wrDone (a : Word) (b : Byte) (s : State) : (s.hostStore a b).wrDone = s.wrDone := rfl
@[simp] theorem State.hostStore_wrAddr (a : Word) (b : Byte) (s : State) : (s.hostStore a b).wrAddr = s.wrAddr := rfl
@[simp] theorem State.hostStore_wrLen (a : Word) (b : Byte) (s : State) : (s.hostStore a b).wrLen = s.wrLen := rfl
@[simp] theorem State.hostStore_srcAddr (a : Word) (b : Byte) (s : State) : (s.hostStore a b).srcAddr = s.srcAddr := rfl
@[simp] theorem State.hostStore_imgW (a : Word) (b : Byte) (s : State) : (s.hostStore a b).imgW = s.imgW := rfl
@[simp] theorem State.hostStore_imgH (a : Word) (b : Byte) (s : State) : (s.hostStore a b).imgH = s.imgH := rfl
@[simp] theorem State.hostStore_imgFmt (a : Word) (b : Byte) (s : State) : (s.hostStore a b).imgFmt = s.imgFmt := rfl
@[simp] theorem State.hostStore_tile (a : Word) (b : Byte) (s : State) : (s.hostStore a b).tile = s.tile := rfl
@[simp] theorem State.hostStore_host (a : Word) (b : Byte) (s : State) : (s.hostStore a b).host = s.host.write a.toNat b := rfl
@[simp] theorem State.hostStore_out (a : Word) (b : Byte) (s : State) : (s.hostStore a b).out = s.out := rfl
@[simp] theorem State.hostStore_cfg (a : Word) (b : Byte) (s : State) : (s.hostStore a b).cfg = s.cfg := rfl
@[simp] theorem State.hostStore_pending (a : Word) (b : Byte) (s : State) : (s.hostStore a b).pending = s.pending := rfl
@[simp] theorem State.hostStore_readData (a : Word) (b : Byte) (s : State) : (s.hostStore a b).readData = s.readData := rfl
@[simp] theorem State.hostStore_sinkAnswers (a : Word) (b : Byte) (s : State) : (s.hostStore a b).sinkAnswers = s.sinkAnswers := rfl
@[simp] theorem State.hostStore_draws (a : Word) (b : Byte) (s : State) : (s.hostStore a b).draws = s.draws := rfl

/-! ### resetBlock -/

@[simp] theorem State.resetBlock_crc (s : State) : (s.resetBlock).crc = crcInit := rfl
@[simp] theorem State.resetBlock_status (s : State) : (s.resetBlock).status = Status.reset := rfl
@[simp] theorem State.resetBlock_wrDone (s : State) : (s.resetBlock).wrDone = 0 := rfl
@[simp] theorem State.resetBlock_wrAddr (s : State) : (s.resetBlock).wrAddr = OperandReg.unwritten := rfl
@[simp] theorem State.resetBlock_wrLen (s : State) : (s.resetBlock).wrLen = OperandReg.unwritten := rfl
@[simp] theorem State.resetBlock_srcAddr (s : State) : (s.resetBlock).srcAddr = OperandReg.unwritten := rfl
@[simp] theorem State.resetBlock_imgW (s : State) : (s.resetBlock).imgW = OperandReg.unwritten := rfl
@[simp] theorem State.resetBlock_imgH (s : State) : (s.resetBlock).imgH = OperandReg.unwritten := rfl
@[simp] theorem State.resetBlock_imgFmt (s : State) : (s.resetBlock).imgFmt = OperandReg.unwritten := rfl
@[simp] theorem State.resetBlock_tile (s : State) : (s.resetBlock).tile = [] := rfl
@[simp] theorem State.resetBlock_host (s : State) : (s.resetBlock).host = s.host := rfl
@[simp] theorem State.resetBlock_out (s : State) : (s.resetBlock).out = [] := rfl
@[simp] theorem State.resetBlock_cfg (s : State) : (s.resetBlock).cfg = s.cfg := rfl
@[simp] theorem State.resetBlock_pending (s : State) : (s.resetBlock).pending = s.pending := rfl
@[simp] theorem State.resetBlock_readData (s : State) : (s.resetBlock).readData = s.readData := rfl
@[simp] theorem State.resetBlock_sinkAnswers (s : State) : (s.resetBlock).sinkAnswers = s.sinkAnswers := rfl
@[simp] theorem State.resetBlock_draws (s : State) : (s.resetBlock).draws = s.draws := rfl

/-! ### hostWrite: it reaches the six operand registers only -/

@[simp] theorem State.hostWrite_crc (r : Reg) (v : Word) (s : State) : (s.hostWrite r v).crc = s.crc := by cases r <;> rfl
@[simp] theorem State.hostWrite_status (r : Reg) (v : Word) (s : State) : (s.hostWrite r v).status = s.status := by cases r <;> rfl
@[simp] theorem State.hostWrite_wrDone (r : Reg) (v : Word) (s : State) : (s.hostWrite r v).wrDone = s.wrDone := by cases r <;> rfl
@[simp] theorem State.hostWrite_wrAddr (r : Reg) (v : Word) (s : State) :
    (s.hostWrite r v).wrAddr = if r = .wrAddr then ⟨v, true⟩ else s.wrAddr := by cases r <;> rfl
@[simp] theorem State.hostWrite_wrLen (r : Reg) (v : Word) (s : State) :
    (s.hostWrite r v).wrLen = if r = .wrLen then ⟨v, true⟩ else s.wrLen := by cases r <;> rfl
@[simp] theorem State.hostWrite_srcAddr (r : Reg) (v : Word) (s : State) :
    (s.hostWrite r v).srcAddr = if r = .srcAddr then ⟨v, true⟩ else s.srcAddr := by cases r <;> rfl
@[simp] theorem State.hostWrite_imgW (r : Reg) (v : Word) (s : State) :
    (s.hostWrite r v).imgW = if r = .imgW then ⟨v, true⟩ else s.imgW := by cases r <;> rfl
@[simp] theorem State.hostWrite_imgH (r : Reg) (v : Word) (s : State) :
    (s.hostWrite r v).imgH = if r = .imgH then ⟨v, true⟩ else s.imgH := by cases r <;> rfl
@[simp] theorem State.hostWrite_imgFmt (r : Reg) (v : Word) (s : State) :
    (s.hostWrite r v).imgFmt = if r = .imgFmt then ⟨v, true⟩ else s.imgFmt := by cases r <;> rfl
@[simp] theorem State.hostWrite_tile (r : Reg) (v : Word) (s : State) : (s.hostWrite r v).tile = s.tile := by cases r <;> rfl
@[simp] theorem State.hostWrite_host (r : Reg) (v : Word) (s : State) : (s.hostWrite r v).host = s.host := by cases r <;> rfl
@[simp] theorem State.hostWrite_out (r : Reg) (v : Word) (s : State) : (s.hostWrite r v).out = s.out := by cases r <;> rfl
@[simp] theorem State.hostWrite_cfg (r : Reg) (v : Word) (s : State) : (s.hostWrite r v).cfg = s.cfg := by cases r <;> rfl
@[simp] theorem State.hostWrite_pending (r : Reg) (v : Word) (s : State) : (s.hostWrite r v).pending = s.pending := by cases r <;> rfl
@[simp] theorem State.hostWrite_readData (r : Reg) (v : Word) (s : State) : (s.hostWrite r v).readData = s.readData := by cases r <;> rfl
@[simp] theorem State.hostWrite_sinkAnswers (r : Reg) (v : Word) (s : State) : (s.hostWrite r v).sinkAnswers = s.sinkAnswers := by cases r <;> rfl
@[simp] theorem State.hostWrite_draws (r : Reg) (v : Word) (s : State) : (s.hostWrite r v).draws = s.draws := by cases r <;> rfl

end Sys2Proof.Machine
end

