-- ==== Sys2Proof/Laws/Ops.lean ====
section
/-! SUPPORT. What each shared operation can do, said once: the CRC fold, the sink's answer, the tracked write, an operation's
next states (exec) and the machine's (step). -/

namespace Sys2Proof.Machine

/-! ### CRC -/

@[simp] theorem crcUpdate_nil (poly r : Word) : crcUpdate poly r [] = r := rfl

@[simp] theorem crcUpdate_cons (poly r : Word) (b : Byte) (l : List Byte) :
    crcUpdate poly r (b :: l) = crcUpdate poly (crcStep poly r b) l := rfl

/-- `crc_update(R, s ++ t) = crc_update(crc_update(R, s), t)` (R102). -/
@[simp] theorem crcUpdate_append (poly r : Word) (l k : List Byte) :
    crcUpdate poly r (l ++ k) = crcUpdate poly (crcUpdate poly r l) k := by
  simp [crcUpdate]

/-! ### The sink and the tracked write -/

theorem State.sinkAnswer_le (s : State) (n : Nat) : s.sinkAnswer n ≤ n := by
  unfold State.sinkAnswer
  split <;> exact Nat.min_le_right _ _

/-- Everything a tracked write can do (R105 to R109). -/
theorem State.trackedWrite_cases (l : List Byte) (s : State) :
    (s.status.fail = true ∧ s.trackedWrite l = State.raise .ioWriteError { s with wrDone := 0 }) ∨
    (s.status.fail = false ∧ l = [] ∧ s.trackedWrite l = State.succeed { s with wrDone := 0 }) ∨
    (s.status.fail = false ∧ l ≠ [] ∧ s.sinkAnswer l.length < l.length ∧
      s.trackedWrite l =
        { s with
          crc := crcUpdate s.cfg.polyR s.crc (l.take (s.sinkAnswer l.length))
          wrDone := BitVec.ofNat 32 (s.sinkAnswer l.length)
          out := s.out ++ l.take (s.sinkAnswer l.length)
          status := { s.status with ok := false, fail := true, err := .ioWriteError }
          sinkAnswers := s.sinkAnswers.tail
          draws := s.draws + 1 }) ∨
    (s.status.fail = false ∧ l ≠ [] ∧ s.sinkAnswer l.length = l.length ∧
      s.trackedWrite l =
        { s with
          crc := crcUpdate s.cfg.polyR s.crc l
          wrDone := BitVec.ofNat 32 l.length
          out := s.out ++ l
          status := { s.status with ok := true, err := .noError }
          sinkAnswers := s.sinkAnswers.tail
          draws := s.draws + 1 }) := by
  rcases hf : s.status.fail with _ | _
  · by_cases hl : l = []
    · subst l
      exact .inr (.inl ⟨rfl, rfl, by simp [State.trackedWrite, hf, State.account]⟩)
    · have he : l.isEmpty = false := by simpa using hl
      have hle := s.sinkAnswer_le l.length
      rcases Nat.lt_or_ge (s.sinkAnswer l.length) l.length with hk | hk
      · exact .inr (.inr (.inl ⟨rfl, hl, hk, by
          simp [State.trackedWrite, hf, he, hk, State.account, State.sinkTake, State.raise, Status.raise, Status.withFail]⟩))
      · have hk' : s.sinkAnswer l.length = l.length := by omega
        exact .inr (.inr (.inr ⟨rfl, hl, hk', by
          simp [State.trackedWrite, hf, he, hk', State.account, State.sinkTake, State.succeed, Status.succeed]⟩))
  · exact .inl ⟨rfl, by simp [State.trackedWrite, hf]⟩

/-! ### Operand registers -/

theorem State.firstUnwritten_write (s : State) :
    s.firstUnwritten [.wrAddr, .wrLen] = none ↔ s.wrAddr.written = true ∧ s.wrLen.written = true := by
  simp only [State.firstUnwritten, State.operandReg]
  rcases s.wrAddr.written <;> rcases s.wrLen.written <;> simp

theorem State.firstUnwritten_source (s : State) : s.firstUnwritten [.srcAddr] = none ↔ s.srcAddr.written = true := by
  simp only [State.firstUnwritten, State.operandReg]
  rcases s.srcAddr.written <;> simp

theorem State.firstUnwritten_image (s : State) :
    s.firstUnwritten [.srcAddr, .imgW, .imgH] = none ↔
      s.srcAddr.written = true ∧ s.imgW.written = true ∧ s.imgH.written = true := by
  simp only [State.firstUnwritten, State.operandReg]
  rcases s.srcAddr.written <;> rcases s.imgW.written <;> rcases s.imgH.written <;> simp

theorem State.firstUnwritten_convert (s : State) :
    s.firstUnwritten [.srcAddr, .imgW, .imgH, .imgFmt] = none ↔
      s.srcAddr.written = true ∧ s.imgW.written = true ∧ s.imgH.written = true ∧ s.imgFmt.written = true := by
  simp only [State.firstUnwritten, State.operandReg]
  rcases s.srcAddr.written <;> rcases s.imgW.written <;> rcases s.imgH.written <;> rcases s.imgFmt.written <;> simp

@[simp] theorem rangeFits_iff (a : Word) (n : Nat) : rangeFits a n = true ↔ a.toNat + n ≤ 4294967296 := by
  rw [rangeFits, decide_eq_true_eq]
  exact Iff.rfl

theorem dimensionsFit_iff (s : State) : dimensionsFit s = true ↔ Is86By48 s := by
  rw [dimensionsFit, Is86By48, Bool.and_eq_true, decide_eq_true_eq, decide_eq_true_eq, ← BitVec.toNat_inj, ← BitVec.toNat_inj]
  exact Iff.rfl

/-! ### What an operation can do -/

/-- Everything the body of PXT.CONVERT can do (R138). -/
theorem convertImage_cases (f : Option Format) (s : State) :
    (∃ g, f = some g ∧ s.srcAddr.value.toNat + srcBytesOf g ≤ 4294967296 ∧ Is86By48 s ∧
      convertImage f s = .next (s.loadTile (rasterBytes (pixelOf g s.cfg s.source)))) ∨
    (f = none ∧ Is86By48 s ∧ convertImage f s = .next (s.failTile .unsupportedFormat)) ∨
    ((∀ g, f = some g → s.srcAddr.value.toNat + srcBytesOf g ≤ 4294967296) ∧ ¬ Is86By48 s ∧
      convertImage f s = .next (s.failTile .invalidDimensions)) ∨
    (∃ g, f = some g ∧ 4294967296 < s.srcAddr.value.toNat + srcBytesOf g ∧
      convertImage f s = .refused .operandRangeWraps) := by
  have hd := dimensionsFit_iff s
  rcases f with _ | g
  · by_cases h : Is86By48 s
    · exact .inr (.inl ⟨rfl, h, by simp [convertImage, hd.mpr h]⟩)
    · exact .inr (.inr (.inl ⟨by simp, h, by simp [convertImage, mt hd.mp h]⟩))
  · by_cases hr : s.srcAddr.value.toNat + srcBytesOf g ≤ 4294967296
    · have hr' := (rangeFits_iff s.srcAddr.value (srcBytesOf g)).mpr hr
      by_cases h : Is86By48 s
      · exact .inl ⟨g, rfl, hr, h, by simp [convertImage, hd.mpr h, hr]⟩
      · exact .inr (.inr (.inl ⟨by simpa using hr, h, by simp [convertImage, mt hd.mp h, hr]⟩))
    · exact .inr (.inr (.inr ⟨g, rfl, by omega, by simp [convertImage, hr]⟩))

theorem loadRaster_of_convertImage {f : Option Format} {s t : State} (h : convertImage f s = .next t) :
    (∃ l, l.length = 8256 ∧ t = s.loadTile l) ∨
      ∃ e, (e = .invalidDimensions ∨ e = .unsupportedFormat) ∧ t = s.failTile e := by
  obtain ⟨g, -, -, -, hc⟩ | ⟨-, -, hc⟩ | ⟨-, -, hc⟩ | ⟨g, -, -, hc⟩ := convertImage_cases f s
  · rw [hc] at h
    cases h
    exact .inl ⟨_, rasterBytes_length _, rfl⟩
  · rw [hc] at h
    cases h
    exact .inr ⟨_, .inr rfl, rfl⟩
  · rw [hc] at h
    cases h
    exact .inr ⟨_, .inl rfl, rfl⟩
  · rw [hc] at h
    cases h

theorem convertAs_next {f : Format} {s t : State} (h : convertAs f s = .next t) :
    (∃ l, l.length = 8256 ∧ t = s.loadTile l) ∨
      ∃ e, (e = .invalidDimensions ∨ e = .unsupportedFormat) ∧ t = s.failTile e := by
  unfold convertAs at h
  split at h
  · cases h
  · exact loadRaster_of_convertImage h

/-- The format instructions are PXT.CONVERT in a given format. -/
theorem exec_format (f : Format) (s : State) : exec f.instr s = convertAs f s := by cases f <;> rfl

/-- With IMG_FMT written and one of the twelve values, PXT.CONVERT is that format's operation (R140). -/
theorem exec_pxtConvert_format {s : State} {f : Format} (h : s.imgFmt = { value := f.word, written := true }) :
    exec .pxtConvert s = convertAs f s := by
  have e : s.firstUnwritten [.srcAddr, .imgW, .imgH, .imgFmt] = s.firstUnwritten [.srcAddr, .imgW, .imgH] := by
    simp only [State.firstUnwritten, State.operandReg, h, if_true]
  simp only [exec, execPxtConvert, convertAs, e, h, formatReserved_word, formatOf_word, if_true]

/-- An instruction of the transcoder is PXT.LOADRAW, PXT.CONVERT, or PXT.CONVERT in a format. -/
theorem IsPxt_cases {i : Instr} (h : IsPxt i) : i = .pxtLoadraw ∨ i = .pxtConvert ∨ ∃ f : Format, i = f.instr := by
  cases i
  case pxtLoadraw => exact .inl rfl
  case pxtConvert => exact .inr (.inl rfl)
  case pxtConvertRgb8 => exact .inr (.inr ⟨.rgb8, rfl⟩)
  case pxtConvertRgb16 => exact .inr (.inr ⟨.rgb16, rfl⟩)
  case pxtConvertRgba8 => exact .inr (.inr ⟨.rgba8, rfl⟩)
  case pxtConvertRgba16 => exact .inr (.inr ⟨.rgba16, rfl⟩)
  case pxtConvertG1 => exact .inr (.inr ⟨.g1, rfl⟩)
  case pxtConvertG2 => exact .inr (.inr ⟨.g2, rfl⟩)
  case pxtConvertG4 => exact .inr (.inr ⟨.g4, rfl⟩)
  case pxtConvertG8 => exact .inr (.inr ⟨.g8, rfl⟩)
  case pxtConvertGa1 => exact .inr (.inr ⟨.ga1, rfl⟩)
  case pxtConvertGa2 => exact .inr (.inr ⟨.ga2, rfl⟩)
  case pxtConvertGa4 => exact .inr (.inr ⟨.ga4, rfl⟩)
  case pxtConvertGa8 => exact .inr (.inr ⟨.ga8, rfl⟩)
  all_goals exact absurd h not_false

/-- A tracked write that is not refused is the tracked write of the bytes it offers. -/
theorem exec_of_offers {i : Instr} {s : State} {l : List Byte} (h : Offers i s l) : exec i s = .next (s.trackedWrite l) := by
  cases i
  case csaWrite =>
    obtain ⟨ha, hl, hr, rfl⟩ := h
    have hu := s.firstUnwritten_write.mpr ⟨ha, hl⟩
    simp [exec, execCsaWrite, hu, hr]
  case csaWrtile =>
    have hv : s.status.tileValid = true := h.1
    have hl : l = s.tile.readBytes 0 Config.tileBytes := h.2
    rw [hl]
    exact if_pos hv
  case csaEmit =>
    obtain rfl : l = le32 (s.crc ^^^ s.cfg.xorOut) := h
    rfl
  all_goals exact h.elim

theorem offers_length {i : Instr} {s : State} {l : List Byte} (h : Offers i s l) : l.length < 4294967296 := by
  cases i
  case csaWrite =>
    obtain ⟨-, -, -, rfl⟩ := h
    simpa using s.wrLen.value.isLt
  case csaWrtile =>
    have hl : l = s.tile.readBytes 0 Config.tileBytes := h.2
    rw [hl, Memory.readBytes_length, Config.tileBytes]
    omega
  case csaEmit =>
    obtain rfl : l = le32 (s.crc ^^^ s.cfg.xorOut) := h
    simp [le32]
  all_goals exact h.elim

/-- Everything an operation that answers a next state can do. -/
theorem exec_next {i : Instr} {s t : State} (h : exec i s = .next t) :
    (i = .blkReset ∧ t = s.resetBlock) ∨ (i = .csaRead ∧ t = s.returnWord s.checksum) ∨
      (∃ l, Offers i s l ∧ t = s.trackedWrite l) ∨
      (IsPxt i ∧ ((∃ l, l.length = 8256 ∧ t = s.loadTile l) ∨
        ∃ e, (e = .invalidDimensions ∨ e = .unsupportedFormat) ∧ t = s.failTile e)) := by
  cases i
  case blkReset =>
    cases h
    exact .inl ⟨rfl, rfl⟩
  case csaRead =>
    cases h
    exact .inr (.inl ⟨rfl, rfl⟩)
  case csaEmit =>
    cases h
    exact .inr (.inr (.inl ⟨_, rfl, rfl⟩))
  case csaWrtile =>
    simp only [exec, execCsaWrtile] at h
    split at h
    · cases h
      exact .inr (.inr (.inl ⟨_, ⟨‹_›, rfl⟩, rfl⟩))
    · cases h
  case csaWrite =>
    simp only [exec, execCsaWrite] at h
    split at h
    · cases h
    · rename_i hu
      split at h
      · rename_i hr
        cases h
        have hw := s.firstUnwritten_write.mp hu
        exact .inr (.inr (.inl ⟨_, ⟨hw.1, hw.2, (rangeFits_iff _ _).mp hr, rfl⟩, rfl⟩))
      · cases h
  case pxtLoadraw =>
    simp only [exec, execPxtLoadraw] at h
    split at h
    · cases h
    · split at h
      · cases h
        exact .inr (.inr (.inr ⟨trivial, .inl ⟨_, Memory.readBytes_length _ _ _, rfl⟩⟩))
      · cases h
  case pxtConvert =>
    simp only [exec, execPxtConvert] at h
    split at h
    · cases h
    · split at h
      · exact .inr (.inr (.inr ⟨trivial, loadRaster_of_convertImage h⟩))
      · cases h
  all_goals exact .inr (.inr (.inr ⟨trivial, convertAs_next h⟩))

/-! ### What a step can do -/

/-- Everything a host read of a register can do: it returns a word, and a free one takes a draw. -/
theorem State.hostRead_cases (r : Reg) (s : State) :
    (∃ v, s.hostRead r = s.returnWord v) ∨ ∃ v, s.hostRead r = s.returnFree v := by
  have operand : ∀ o : OperandReg, (∃ v, s.readOperand o = s.returnWord v) ∨ ∃ v, s.readOperand o = s.returnFree v := by
    intro o
    unfold State.readOperand
    split
    · exact .inl ⟨_, rfl⟩
    · exact .inr ⟨_, rfl⟩
  cases r
  case cmd => exact .inl ⟨_, rfl⟩
  case status => exact .inl ⟨_, rfl⟩
  case csum => exact .inl ⟨_, rfl⟩
  case wrDone => exact .inl ⟨_, rfl⟩
  all_goals exact operand _

/-- Everything a step that answers a next state can do: nothing is pending and nothing changes; or the next access, taken off
the list, issues an operation, resets the block, writes a register, reads, or changes a byte of HOST. -/
theorem step_next {s t : State} (h : step s = .next t) :
    (s.pending = [] ∧ t = s) ∨
    ∃ a rest, s.pending = a :: rest ∧
      ((∃ i, exec i { s with pending := rest } = .next t ∧ (i = .blkReset → ResetsBlock a)) ∨
       (a = .hardReset ∧ t = State.resetBlock { s with pending := rest }) ∨
       (∃ n v r, a = .write n v ∧ regOfNumber n = some r ∧ t = State.hostWrite r v { s with pending := rest }) ∨
       (∃ v, t = State.returnWord v { s with pending := rest }) ∨
       (∃ v, t = State.returnFree v { s with pending := rest }) ∨
       (∃ addr b, a = .store addr b ∧ t = State.hostStore addr b { s with pending := rest })) := by
  unfold step fetchAccess at h
  rcases hp : s.pending with _ | ⟨a, rest⟩
  · simp only [hp] at h
    cases h
    exact .inl ⟨rfl, rfl⟩
  · simp only [hp] at h
    refine .inr ⟨a, rest, rfl, ?_⟩
    cases a with
    | write n v =>
      simp only [runAccess, busWrite] at h
      split at h
      · cases h
      · rename_i hn
        simp only [issue] at h
        split at h
        · rename_i i hi
          refine .inl ⟨i, h, ?_⟩
          rintro rfl
          exact .inr (by rw [regOfNumber_cmd hn, decodeIssue_blkReset hi])
        · cases h
      · cases h
        exact .inr (.inr (.inl ⟨_, _, _, rfl, ‹_›, rfl⟩))
    | read n =>
      simp only [runAccess, busRead] at h
      split at h
      · cases h
      · split at h
        · rename_i i hi
          refine .inl ⟨i, h, ?_⟩
          rintro rfl
          cases (decodeRead_ok hi).2
        · cases h
          obtain ⟨v, hv⟩ | ⟨v, hv⟩ := State.hostRead_cases _ { s with pending := rest }
          · exact .inr (.inr (.inr (.inl ⟨v, hv⟩)))
          · exact .inr (.inr (.inr (.inr (.inl ⟨v, hv⟩))))
    | readTile k =>
      simp only [runAccess] at h
      split at h
      · cases h
        unfold State.hostReadTile
        split
        · exact .inr (.inr (.inr (.inl ⟨_, rfl⟩)))
        · exact .inr (.inr (.inr (.inr (.inl ⟨_, rfl⟩))))
      · cases h
    | store addr b =>
      cases h
      exact .inr (.inr (.inr (.inr (.inr ⟨_, _, rfl, rfl⟩))))
    | hardReset =>
      cases h
      exact .inr (.inl ⟨rfl, rfl⟩)

end Sys2Proof.Machine
end

