-- ==== Sys2Proof/Laws/PerInstr.lean ====
section
/-! SUPPORT. A family of statements made once per operation: its encoding is a well-formed table word of one of the three
places, and carries no reserved bit (30_encoding R80, R84). -/

namespace Sys2Proof.Laws.EncodingWellFormed

/-- The encoding of an operation decodes in its place and fits 16 bits: `CMD[31:8]` and `IMG_FMT[31:16]` are 0. -/
def Statement (i : Instr) : Prop := (encode i).wellFormed = true ∧ (encode i).word.toNat < 65536

theorem blkReset : Statement .blkReset := ⟨rfl, by decide⟩
theorem csaWrite : Statement .csaWrite := ⟨rfl, by decide⟩
theorem csaWrtile : Statement .csaWrtile := ⟨rfl, by decide⟩
theorem csaEmit : Statement .csaEmit := ⟨rfl, by decide⟩
theorem pxtLoadraw : Statement .pxtLoadraw := ⟨rfl, by decide⟩
theorem pxtConvert : Statement .pxtConvert := ⟨rfl, by decide⟩
theorem csaRead : Statement .csaRead := ⟨rfl, by decide⟩
theorem pxtConvertRgb8 : Statement .pxtConvertRgb8 := ⟨rfl, by decide⟩
theorem pxtConvertRgb16 : Statement .pxtConvertRgb16 := ⟨rfl, by decide⟩
theorem pxtConvertRgba8 : Statement .pxtConvertRgba8 := ⟨rfl, by decide⟩
theorem pxtConvertRgba16 : Statement .pxtConvertRgba16 := ⟨rfl, by decide⟩
theorem pxtConvertG1 : Statement .pxtConvertG1 := ⟨rfl, by decide⟩
theorem pxtConvertG2 : Statement .pxtConvertG2 := ⟨rfl, by decide⟩
theorem pxtConvertG4 : Statement .pxtConvertG4 := ⟨rfl, by decide⟩
theorem pxtConvertG8 : Statement .pxtConvertG8 := ⟨rfl, by decide⟩
theorem pxtConvertGa1 : Statement .pxtConvertGa1 := ⟨rfl, by decide⟩
theorem pxtConvertGa2 : Statement .pxtConvertGa2 := ⟨rfl, by decide⟩
theorem pxtConvertGa4 : Statement .pxtConvertGa4 := ⟨rfl, by decide⟩
theorem pxtConvertGa8 : Statement .pxtConvertGa8 := ⟨rfl, by decide⟩

end Sys2Proof.Laws.EncodingWellFormed
end

