-- ==== Sys2Proof/Laws/Pixel.lean ====
section
/-! SUPPORT. Pixel arithmetic in plain numbers: packing, the green bit, samples of each depth, the words of a loaded tile. -/

namespace Sys2Proof.Machine

theorem and_low (v n : Nat) : v &&& (2 ^ n - 1) = v % 2 ^ n := Nat.and_two_pow_sub_one_eq_mod v n

/-- Packing three fields that fit their widths (R14). -/
theorem pack565_toNat {r g b : Nat} (hr : r < 32) (hg : g < 64) (hb : b < 32) : (pack565 r g b).toNat = wordOfFields r g b := by
  have e1 : r &&& 0x1F = r := by rw [show (0x1F : Nat) = 2 ^ 5 - 1 by rfl, and_low]; omega
  have e2 : g &&& 0x3F = g := by rw [show (0x3F : Nat) = 2 ^ 6 - 1 by rfl, and_low]; omega
  have e3 : b &&& 0x1F = b := by rw [show (0x1F : Nat) = 2 ^ 5 - 1 by rfl, and_low]; omega
  have e4 : g <<< 5 ||| b = g <<< 5 + b := (Nat.shiftLeft_add_eq_or_of_lt (by omega) g).symm
  have e5 : r <<< 11 ||| (g <<< 5 + b) = r <<< 11 + (g <<< 5 + b) :=
    (Nat.shiftLeft_add_eq_or_of_lt (by rw [Nat.shiftLeft_eq]; omega) r).symm
  rw [pack565, e1, e2, e3, Nat.lor_assoc, e4, e5, BitVec.toNat_ofNat, wordOfFields, Nat.shiftLeft_eq, Nat.shiftLeft_eq]
  omega

/-- The fields of a packed word. -/
theorem wordOfFields_fields {r g b : Nat} (hg : g < 64) (hb : b < 32) :
    wordOfFields r g b / 2048 = r ∧ wordOfFields r g b / 32 % 64 = g ∧ wordOfFields r g b % 32 = b := by
  unfold wordOfFields
  omega

/-- The duplicated low bit of a 6-bit green (R132). -/
theorem greenFill_eq {g : Nat} (hg : g < 64) : greenFill g = if g < 32 then g else 2 * (g / 2) + 1 := by
  have h : ∀ x : Fin 64, greenFill x.val = if x.val < 32 then x.val else 2 * (x.val / 2) + 1 := by decide
  exact h ⟨g, hg⟩

theorem greenField_lt {n g : Nat} (hg : g < 2 ^ (n + 6)) : greenField n g < 64 := by
  unfold greenField
  split
  · have : g / 2 ^ n < 2 ^ 5 := Nat.div_lt_of_lt_mul (by rwa [← Nat.pow_add])
    omega
  · have : g / 2 ^ (n + 1) < 2 ^ 5 := Nat.div_lt_of_lt_mul (by rwa [← Nat.pow_add, Nat.add_assoc])
    omega

/-- A green field is below 32 or odd (R132, R160). -/
theorem greenField_range {n g : Nat} : greenField n g < 32 ∨ greenField n g % 2 = 1 := by
  unfold greenField
  split
  · have : g / 2 ^ n < 2 ^ 5 := Nat.div_lt_of_lt_mul (by rwa [← Nat.pow_add])
    omega
  · omega

theorem rgb8To565_toNat {r g b : Nat} (hr : r < 256) (hg : g < 256) (hb : b < 256) :
    (rgb8To565 r g b).toNat = wordOfFields (r / 8) (greenField 2 g) (b / 8) := by
  have hfill : greenFill (g / 4) = greenField 2 g := by
    rw [greenFill_eq (by omega)]
    unfold greenField
    norm_num
    split <;> split <;> omega
  rw [rgb8To565, Nat.shiftRight_eq_div_pow, Nat.shiftRight_eq_div_pow, Nat.shiftRight_eq_div_pow]
  norm_num
  rw [hfill, pack565_toNat (by omega) (greenField_lt (by omega)) (by omega)]

theorem rgb16To565_toNat {r g b : Nat} (hr : r < 65536) (hg : g < 65536) (hb : b < 65536) :
    (rgb16To565 r g b).toNat = wordOfFields (r / 2048) (greenField 10 g) (b / 2048) := by
  have hfill : greenFill (g / 1024) = greenField 10 g := by
    rw [greenFill_eq (by omega)]
    unfold greenField
    norm_num
    split <;> split <;> omega
  rw [rgb16To565, Nat.shiftRight_eq_div_pow, Nat.shiftRight_eq_div_pow, Nat.shiftRight_eq_div_pow]
  norm_num
  rw [hfill, pack565_toNat (by omega) (greenField_lt (by omega)) (by omega)]

theorem premul8_lt {c a : Nat} (hc : c < 256) (ha : a < 256) : premul8 c a < 256 := by
  unfold premul8
  have : c * a ≤ 255 * 255 := Nat.mul_le_mul (by omega) (by omega)
  omega

theorem premul16_lt {c a : Nat} (hc : c < 65536) (ha : a < 65536) : premul16 c a < 65536 := by
  unfold premul16
  have : c * a ≤ 65535 * 65535 := Nat.mul_le_mul (by omega) (by omega)
  omega

/-! ### Samples (20_memory R56) -/

theorem sample_byte (src : Nat → Byte) (c p k : Nat) : sample src c 8 p k = (src (p * c + k)).toNat := by simp [sample]

theorem be16_eq (x y : Byte) : be16 x y = 256 * x.toNat + y.toNat := by
  have h : x.toNat <<< 8 ||| y.toNat = x.toNat <<< 8 + y.toNat := (Nat.shiftLeft_add_eq_or_of_lt y.isLt x.toNat).symm
  rw [be16, h, Nat.shiftLeft_eq]
  omega

theorem sample_half (src : Nat → Byte) (c p k : Nat) :
    sample src c 16 p k = 256 * (src (2 * (p * c + k))).toNat + (src (2 * (p * c + k) + 1)).toNat := by
  rw [sample, if_pos rfl, be16_eq]

/-- A sample below 8 bits: the bits of one byte, most significant first. -/
theorem sample_sub (src : Nat → Byte) (c d p k : Nat) (hd : d < 8) :
    sample src c d p k =
      (src ((p * (c * d) + k * d) / 8)).toNat / 2 ^ (8 - d - (p * (c * d) + k * d) % 8) % 2 ^ d := by
  rw [sample, if_neg (by omega), if_neg (by omega), and_low, Nat.shiftRight_eq_div_pow]

theorem sample_lt (src : Nat → Byte) (c d p k : Nat) (hd : d < 8 ∨ d = 8 ∨ d = 16) : sample src c d p k < 2 ^ d := by
  obtain hd | rfl | rfl := hd
  · rw [sample_sub _ _ _ _ _ hd]
    exact Nat.mod_lt _ (Nat.two_pow_pos d)
  · rw [sample_byte]
    exact (src _).isLt
  · rw [sample_half]
    have h1 := (src (2 * (p * c + k))).isLt
    have h2 := (src (2 * (p * c + k) + 1)).isLt
    omega

/-! ### Tiles -/

theorem half_bytes (v : Half) : (v.extractLsb' 0 8).toNat + 256 * (v.extractLsb' 8 8).toNat = v.toNat := by
  have h := v.isLt
  simp only [BitVec.extractLsb'_toNat, Nat.shiftRight_eq_div_pow]
  omega

/-- A tile loaded from pixel words has those words (R55, R141). -/
theorem tileWord_raster (pixel : Nat → Half) (p : Nat) (h : p < 4128) :
    tileWord (Memory.ofBytes 0 (rasterBytes pixel)) p = (pixel p).toNat := by
  obtain ⟨h1, h2⟩ := rasterBytes_getD pixel p h
  rw [tileWord, Memory.read_ofBytes, Memory.read_ofBytes, if_pos (by omega), if_pos (by omega), Nat.sub_zero, Nat.sub_zero,
    h1, h2, half_bytes]

theorem wfTile_ofBytes {l : List Byte} (h : l.length = 8256) : (Memory.ofBytes 0 l).wfTile = true :=
  Memory.wfIn_ofBytes 8256 0 l (by omega)

/-- The success of a PXT operation as one record (R137, R138). -/
theorem loadTile_eq (l : List Byte) (s : State) : s.loadTile l = tileLoaded s (Memory.ofBytes 0 l) := rfl

/-- The error of PXT.CONVERT as one record (R142). -/
theorem failTile_eq (e : ErrCode) (s : State) : s.failTile e = convertFailed s e := rfl

/-- A conversion whose operands are ready and whose dimensions are right loads the tile (R138). -/
theorem exec_format_ready {f : Format} {s : State} (hs : SourceReady s (srcBytesOf f)) (hd : Is86By48 s) :
    exec f.instr s = .next (tileLoaded s (Memory.ofBytes 0 (rasterBytes (pixelOf f s.cfg s.source)))) := by
  obtain ⟨ha, hw, hh, hr⟩ := hs
  have hu := s.firstUnwritten_image.mpr ⟨ha, hw, hh⟩
  have hr' := (rangeFits_iff _ _).mpr hr
  have hd' := (dimensionsFit_iff s).mpr hd
  rw [exec_format, convertAs, hu]
  simp only [convertImage, Option.all_some, hr', hd', if_true, loadTile_eq]

/-- A successful conversion is one whose operands are ready and whose dimensions are right. -/
theorem exec_format_ok {f : Format} {s t : State} (h : exec f.instr s = .next t) (hok : t.status.ok = true) :
    SourceReady s (srcBytesOf f) ∧ Is86By48 s ∧
      t = tileLoaded s (Memory.ofBytes 0 (rasterBytes (pixelOf f s.cfg s.source))) := by
  have ready : SourceReady s (srcBytesOf f) ∧ Is86By48 s := by
    rw [exec_format, convertAs] at h
    split at h
    · cases h
    · rename_i hu
      obtain ⟨ha, hw, hh⟩ := s.firstUnwritten_image.mp hu
      obtain ⟨g, hg, hr, hd, -⟩ | ⟨hn, -, -⟩ | ⟨-, -, hc⟩ | ⟨g, -, -, hc⟩ := convertImage_cases (some f) s
      · cases hg
        exact ⟨⟨ha, hw, hh, hr⟩, hd⟩
      · cases hn
      · rw [hc] at h
        cases h
        cases hok
      · rw [hc] at h
        cases h
  refine ⟨ready.1, ready.2, ?_⟩
  rw [exec_format_ready ready.1 ready.2] at h
  cases h
  rfl

end Sys2Proof.Machine
end

