-- ==== Sys2Proof/Tests/Slice0.lean ====
section
/-! SUPPORT. Tests: ill-formed terms refused, words written out from the spec's tables, values of 95_test_vectors.md, and for
every obligation with hypotheses a state that meets them (witness_<its name>). -/

namespace Sys2Proof.Tests

open Sys2Proof Sys2Proof.Machine

/-! ### WellFormed: an ill-formed access for each check -/

theorem test_wf_reserved_command : Access.wellFormed (.write 0 0x00000005) = false := by decide
theorem test_wf_reserved_high_bits : Access.wellFormed (.write 0 0x00000102) = false := by decide
theorem test_wf_reserved_format_bits : Access.wellFormed (.write 9 0x00010008) = false := by decide
theorem test_wf_register_number : Access.wellFormed (.write 10 0) = false := by decide
theorem test_wf_read_number : Access.wellFormed (.read 10) = false := by decide
theorem test_wf_tile_index : Access.wellFormed (.readTile 8256) = false := by decide
theorem test_wf_table_word : TableWord.wellFormed { port := .imageFormat, word := 0x00000210 } = false := by decide

/-! ### Decode: the words of R81, R85 and R117, bit by bit -/

theorem test_decode_commands :
    decodeCommand 0b00000000000000000000000000000001 = .ok .blkReset ∧
    decodeCommand 0b00000000000000000000000000000010 = .ok .csaWrite ∧
    decodeCommand 0b00000000000000000000000000000011 = .ok .csaWrtile ∧
    decodeCommand 0b00000000000000000000000000000100 = .ok .csaEmit ∧
    decodeCommand 0b00000000000000000000000000010000 = .ok .pxtLoadraw ∧
    decodeCommand 0b00000000000000000000000000010001 = .ok .pxtConvert := ⟨rfl, rfl, rfl, rfl, rfl, rfl⟩

theorem test_decode_formats :
    decodeFormat 0b00000000000000000000000000001000 = .ok .pxtConvertRgb8 ∧
    decodeFormat 0b00000000000000000000000000010000 = .ok .pxtConvertRgb16 ∧
    decodeFormat 0b00000000000000000000000100001000 = .ok .pxtConvertRgba8 ∧
    decodeFormat 0b00000000000000000000000100010000 = .ok .pxtConvertRgba16 ∧
    decodeFormat 0b00000000000000000000001000000001 = .ok .pxtConvertG1 ∧
    decodeFormat 0b00000000000000000000001000000010 = .ok .pxtConvertG2 ∧
    decodeFormat 0b00000000000000000000001000000100 = .ok .pxtConvertG4 ∧
    decodeFormat 0b00000000000000000000001000001000 = .ok .pxtConvertG8 ∧
    decodeFormat 0b00000000000000000000001100000001 = .ok .pxtConvertGa1 ∧
    decodeFormat 0b00000000000000000000001100000010 = .ok .pxtConvertGa2 ∧
    decodeFormat 0b00000000000000000000001100000100 = .ok .pxtConvertGa4 ∧
    decodeFormat 0b00000000000000000000001100001000 = .ok .pxtConvertGa8 :=
  ⟨rfl, rfl, rfl, rfl, rfl, rfl, rfl, rfl, rfl, rfl, rfl, rfl⟩

theorem test_decode_csum_read : decodeRead 0b00000000000000000000000000000010 = .ok .csaRead := rfl

theorem test_decode_read_of_other_register : decodeRead 5 = .error (.notAnOperation 5) := rfl

theorem test_decode_table_words :
    decodeTableWord 32 1 = some .blkReset ∧ decodeTableWord 32 0x108 = some .pxtConvertRgba8 ∧ decodeTableWord 32 5 = none :=
  ⟨rfl, rfl, rfl⟩

/-! ### Small states -/

/-- The bytes "123456789" (95_test_vectors V-C2). -/
def digits : List Byte := [0x31, 0x32, 0x33, 0x34, 0x35, 0x36, 0x37, 0x38, 0x39]

/-- The digits at 0x1000 in HOST, every operand register written, an 86 × 48 RGB8 image, a sink that answers k once. -/
def ready (k : Nat) : State :=
  { State.reset with
    cfg := Params.reference
    host := Memory.ofBytes 0x1000 digits
    wrAddr := { value := 0x1000, written := true }
    wrLen := { value := 9, written := true }
    srcAddr := { value := 0x1000, written := true }
    imgW := { value := 86, written := true }
    imgH := { value := 48, written := true }
    imgFmt := { value := 0x8, written := true }
    sinkAnswers := [k] }

/-- The same with a valid tile. -/
def tiled (k : Nat) : State := { ready k with status := { ok := true, fail := false, tileValid := true, err := .noError } }

/-- The same with a failure standing. -/
def failed : State := { tiled 9 with status := { ok := false, fail := true, tileValid := true, err := .ioWriteError } }

/-- A source of n bytes that ends at the last HOST byte, with its register values. -/
def atTop (n : Nat) : State := { ready 0 with srcAddr := { value := BitVec.ofNat 32 (4294967296 - n), written := true } }

/-- What a claim reads off an outcome: a predicate of the next state. -/
def nextIs (o : Host.Outcome State Fault Refusal) (f : State → Bool) : Bool :=
  match o with
  | .next t => f t
  | _ => false

/-- A source buffer given by its first bytes. -/
def src (l : List Byte) (i : Nat) : Byte := l.getD i 0

/-! ### Values of 95_test_vectors.md -/

/-- V-C1. -/
theorem test_crc_step : crcStep Config.polyR 0xFFFFFFFF 0x00 = 0x2DFD1072 ∧
    crcStep Config.polyR 0x00000000 0x01 = 0x77073096 := by decide +kernel

/-- V-C2: "abc". -/
theorem test_crc_abc : crcUpdate Config.polyR crcInit [0x61, 0x62, 0x63] = 0xCADBBE3D := by decide +kernel

/-- V-C5, k = 9. -/
theorem test_csaWrite_accepted : nextIs (exec .csaWrite (ready 9)) (fun t =>
    t.crc == 0x340BC6D9 && t.wrDone == 9 && t.status.toWord == 0x00000001 && t.out == digits) = true := by decide +kernel

/-- V-C5, k = 3. -/
theorem test_csaWrite_short : nextIs (exec .csaWrite (ready 3)) (fun t =>
    t.crc == 0x77B79C2D && t.wrDone == 3 && t.status.toWord == 0x00000302 && t.out == [0x31, 0x32, 0x33]) = true := by
  decide +kernel

/-- V-C6, reset only. -/
theorem test_csaEmit_from_reset : nextIs (exec .csaEmit { State.reset with sinkAnswers := [4] }) (fun t =>
    t.out == [0, 0, 0, 0] && t.crc == 0xDEBB20E3 && t.wrDone == 4) = true := by decide +kernel

/-- V-C6, "123456789" before, XOROUT = 0. -/
theorem test_csaEmit_xorout_zero : nextIs (exec .csaEmit { ready 4 with
    crc := 0x340BC6D9, cfg := { Params.reference with xorOut := 0 } }) (fun t =>
    t.out == [0xD9, 0xC6, 0x0B, 0x34] && t.crc == 0) = true := by decide +kernel

/-- V-C5, the lines below its table: a standing failure. -/
theorem test_csaWrtile_standing_failure : nextIs (exec .csaWrtile failed) (fun t =>
    t.wrDone == 0 && t.status.toWord == 0x00000306 && t.out == []) = true := by decide +kernel

/-- V-C7: with TILE_VALID = 0 the operation is refused. -/
theorem test_csaWrtile_refused : exec .csaWrtile (ready 0) = .refused .tileNotValid := rfl

/-- P1, line 10. -/
theorem test_csaRead : nextIs (exec .csaRead { ready 0 with crc := 0x340BC6D9 }) (fun t =>
    t.readData == 0xCBF43926 && t.status == Status.reset) = true := by decide +kernel

/-- P4, lines 10 and 11. -/
theorem test_blkReset : nextIs (exec .blkReset failed) (fun t =>
    t.status.toWord == 0 && t.crc == 0xFFFFFFFF && !t.wrAddr.written) = true := by decide +kernel

/-- V-E1: 16-bit greyscale. -/
theorem test_pxtConvert_unsupported : nextIs (exec .pxtConvert { tiled 0 with imgFmt := { value := 0x210, written := true } })
    (fun t => t.status.toWord == 0x00000200) = true := by decide +kernel

/-- V-E1: 85 × 48 with an unknown format; dimensions are checked first. -/
theorem test_pxtConvert_dimensions_first : nextIs (exec .pxtConvert { tiled 0 with
    imgW := { value := 85, written := true }, imgFmt := { value := 0x903, written := true } })
    (fun t => t.status.toWord == 0x00000100) = true := by decide +kernel

/-- V-T14: no byte is swapped. -/
theorem test_pxtLoadraw : nextIs (exec .pxtLoadraw (ready 0)) (fun t => t.status.toWord == 0x00000005) = true ∧
    ((ready 0).loadTile digits).tile.readBytes 0 10 = digits ++ [0] := by decide +kernel

/-- V-T2. -/
theorem test_rgb8 : pixelRgb8 (src [0x12, 0x34, 0x56]) 0 = 0x11AA ∧ pixelRgb8 (src [0, 0x80, 0]) 0 = 0x0420 := by decide +kernel

/-- V-T3. -/
theorem test_rgba8 : pixelRgba8 (src [200, 100, 50, 128]) 0 = 0x6183 ∧ pixelRgba8 (src [1, 1, 1, 254]) 0 = 0 := by decide +kernel

/-- V-T4. -/
theorem test_rgb16 : pixelRgb16 (src [0x12, 0x34, 0x56, 0x78, 0x9A, 0xBC]) 0 = 0x12B3 := by decide +kernel

/-- V-T5. -/
theorem test_rgba16 : pixelRgba16 (src [0x12, 0x34, 0x56, 0x78, 0x9A, 0xBC, 0x80, 0x00]) 0 = 0x0949 := by decide +kernel

/-- V-T6. -/
theorem test_g1 : (List.range 8).map (pixelG1 (src [0xA5])) = [0xFFFF, 0, 0xFFFF, 0, 0, 0xFFFF, 0, 0xFFFF] := by decide +kernel

/-- V-T7. -/
theorem test_g2 : (List.range 4).map (pixelG2 Params.reference (src [0x1B])) = [0x0000, 0x52AA, 0xAD55, 0xFFFF] := by
  decide +kernel

/-- V-T8. -/
theorem test_g4 : (List.range 16).map greyExpand = [0x0000, 0x1082, 0x2104, 0x3186, 0x4228, 0x52AA, 0x632C, 0x73AE, 0x8C51,
    0x9CD3, 0xAD55, 0xBDD7, 0xCE79, 0xDEFB, 0xEF7D, 0xFFFF] := by decide +kernel

/-- V-T8: nibble order. -/
theorem test_g4_nibbles : (List.range 2).map (pixelG4 (src [0x8F])) = [0x8C51, 0xFFFF] := by decide +kernel

/-- V-T9: the quirk. -/
theorem test_g8 : (List.range 4).map (pixelG8 (src [0x81, 0x0A, 0xC8, 0xF0])) = [0x9492, 0xAD55, 0xCE59, 0xF79E] := by
  decide +kernel

/-- V-T10. -/
theorem test_ga1 : (List.range 4).map (pixelGa1 Params.reference (src [0xE4])) = [0xFFFF, 0, 0, 0] := by decide +kernel

/-- V-T10. -/
theorem test_ga2 : (List.range 2).map (pixelGa2 Params.reference (src [0xB6])) = [0xFFFF, 0] := by decide +kernel

/-- V-T11. -/
theorem test_ga4 : (List.range 4).map (pixelGa4 (src [0xF8, 0x8F, 0x88, 0xF1])) = [0x8C71, 0x8C71, 0x4A49, 0x1082] := by
  decide +kernel

/-- V-T12. -/
theorem test_ga8 : (List.range 3).map (pixelGa8 (src [200, 100, 255, 1, 31, 38])) = [0x4A69, 0x0000, 0x0020] := by decide +kernel

/-- V-T13: pixel 1 of the RGB8 source `(7 i + 3) mod 256`, from HOST, and the status of a whole PXT.CONVERT. -/
theorem test_pxtConvert_rgb8 :
    let s : State := { ready 0 with host := Memory.ofBytes 0x1000 [0x03, 0x0A, 0x11, 0x18, 0x1F, 0x26] }
    nextIs (exec .pxtConvertRgb8 s) (fun t => t.status.toWord == 0x00000005) = true ∧
    le16 (pixelRgb8 s.source 1) = [0xE4, 0x18] := by decide +kernel

/-- P4, line 3: a host read of STATUS. -/
theorem test_step_status_read : nextIs (step { failed with pending := [.read 1] }) (fun t =>
    t.readData == 0x00000306 && t.pending == []) = true := by decide +kernel

/-- An outcome with a next state of which a check holds. -/
theorem next_of_nextIs {o : Host.Outcome State Fault Refusal} {f : State → Bool} (h : nextIs o f = true) :
    ∃ t, o = .next t ∧ f t = true := by
  cases o with
  | next t => exact ⟨t, rfl, h⟩
  | fault f => cases h
  | refused r => cases h

/-! ### Witnesses: for each obligation with hypotheses, states and operands that meet them all

The boundary values are noted where a range has one. -/

theorem witness_DecodeOfEncodeIsTheInstruction : Instr.wellFormed .csaEmit = true := rfl

theorem witness_DecodedWordIsItsEncoding : decode { port := .imageFormat, word := 0x308 } = .ok .pxtConvertGa8 := rfl

/-- Boundaries: the words next to 0x04 and 0x11, and 0x01 with a reserved bit. -/
theorem witness_ReservedCommandWordIsRefused :
    (∀ w ∈ ([0x00000000, 0x00000005, 0x00000012, 0x00000101, 0xFFFFFFFF] : List Word),
      w ∉ ([0x00000001, 0x00000002, 0x00000003, 0x00000004, 0x00000010, 0x00000011] : List Word)) ∧
    State.pending { ready 0 with pending := [.write 0 5] } = [.write 0 5] := ⟨by simp, rfl⟩

/-- First clause with a plain command, with PXT.CONVERT and a format, with PXT.CONVERT and none; second clause. -/
theorem witness_StepRunsTheDecodedOperation :
    decodeIssue 0x00000002 (some 0x8) = .ok .csaWrite ∧ decodeIssue 0x00000011 (some 0x308) = .ok .pxtConvertGa8 ∧
    decodeIssue 0x00000011 none = .ok .pxtConvert ∧
    State.pending { ready 0 with pending := [.write 0 0x11] } = [.write 0 0x11] ∧
    State.pending { ready 0 with pending := [.read 2] } = [.read 2] := ⟨rfl, rfl, rfl, rfl, rfl⟩

theorem witness_PlacedWordRunsNext :
    decodeTableWord 32 0x11 = some .pxtConvert ∧ decodeTableWord 32 0x308 = some .pxtConvertGa8 := ⟨rfl, rfl⟩

theorem witness_IdleBlockStaysAsItIs : State.pending (ready 0) = [] := rfl

/-- The polynomial of R101: its bit 31 is 1. -/
theorem witness_CrcStepIsABijectionWithTheCheckValue : Config.polyR.getLsbD 31 = true := by decide

/-- For each of the three operations; WR_LEN = 1 at the last HOST byte is the boundary of CSA.WRITE's range. -/
theorem witness_AcceptedTrackedWrite :
    (Offers .csaWrite (ready 9) digits ∧ (ready 9).status.fail = false ∧ digits ≠ [] ∧ (ready 9).sinkAnswer 9 = 9) ∧
    (let s : State := { ready 1 with wrAddr := { value := 0xFFFFFFFF, written := true },
                                      wrLen := { value := 1, written := true } }
     Offers .csaWrite s [0] ∧ s.status.fail = false ∧ s.sinkAnswer 1 = 1) ∧
    (∃ bytes, Offers .csaWrtile (tiled 8256) bytes ∧ (tiled 8256).status.fail = false ∧ bytes ≠ [] ∧
      (tiled 8256).sinkAnswer bytes.length = bytes.length) ∧
    (Offers .csaEmit (ready 4) [0, 0, 0, 0] ∧ (ready 4).status.fail = false ∧ (ready 4).sinkAnswer 4 = 4) := by
  refine ⟨⟨⟨rfl, rfl, by decide, by decide⟩, rfl, by decide, rfl⟩, ⟨⟨rfl, rfl, by decide, by decide⟩, rfl, rfl⟩,
    ⟨_, ⟨rfl, rfl⟩, rfl, fun h => ?_, ?_⟩, rfl, rfl, rfl⟩
  · have := congrArg List.length h
    rw [Memory.readBytes_length] at this
    cases this
  · rw [Memory.readBytes_length]
    rfl

/-- Boundaries: k = 0 and k = n − 1. -/
theorem witness_ShortTrackedWrite :
    (∀ k < 9, Offers .csaWrite (ready k) digits ∧ (ready k).status.fail = false ∧ (ready k).sinkAnswer 9 = k) ∧
    (∃ bytes, Offers .csaWrtile (tiled 8255) bytes ∧ (tiled 8255).status.fail = false ∧
      (tiled 8255).sinkAnswer bytes.length = 8255 ∧ 8255 < bytes.length) ∧
    (Offers .csaEmit (ready 3) [0, 0, 0, 0] ∧ (ready 3).status.fail = false ∧ (ready 3).sinkAnswer 4 = 3) := by
  refine ⟨fun k hk => ⟨⟨rfl, rfl, (by decide : 4096 + 9 ≤ 4294967296), rfl⟩, rfl, ?_⟩, ⟨_, ⟨rfl, rfl⟩, rfl, ?_, ?_⟩, rfl, rfl, rfl⟩
  · exact Nat.min_eq_left (Nat.le_of_lt hk)
  · rw [Memory.readBytes_length]
    rfl
  · rw [Memory.readBytes_length]
    decide

theorem witness_StandingFailureEndsTrackedWrites :
    (Offers .csaWrite failed digits ∧ (∃ bytes, Offers .csaWrtile failed bytes) ∧ Offers .csaEmit failed [0, 0, 0, 0] ∧
      failed.status.fail = true) ∧
    (∃ t, exec .csaEmit failed = .next t) ∧ (∃ t, exec .blkReset failed = .next t) ∧ failed.Inv :=
  ⟨⟨⟨rfl, rfl, by decide, rfl⟩, ⟨_, rfl, rfl⟩, rfl, rfl⟩, ⟨_, rfl⟩, ⟨_, rfl⟩,
    ⟨rfl, by decide +kernel, rfl, Nat.le_refl 0, fun h => (nomatch h), fun _ => rfl⟩⟩

theorem witness_BlkResetStartsANewInvocation :
    ∃ t, exec .blkReset failed = .next t ∧ failed.status.fail = true ∧ t.status.fail = false := ⟨_, rfl, rfl, rfl⟩

theorem witness_EmptyWriteSucceeds :
    let s : State := { ready 0 with wrLen := { value := 0, written := true } }
    s.wrAddr.written = true ∧ s.wrLen = { value := 0, written := true } ∧ s.status.fail = false := ⟨rfl, rfl, rfl⟩

/-- The first clause right after reset; the other two at the range's boundary, 2^32 + 1 and 2^32. -/
theorem witness_CsaWriteRefusals :
    State.reset.wrAddr.written = false ∧
    (let s : State := { ready 0 with wrAddr := { value := 0xFFFFFFFF, written := true },
                                      wrLen := { value := 2, written := true } }
     s.wrAddr.written = true ∧ s.wrLen.written = true ∧ 4294967296 < s.wrAddr.value.toNat + s.wrLen.value.toNat) ∧
    (let s : State := { ready 0 with wrAddr := { value := 0xFFFFFFFF, written := true },
                                      wrLen := { value := 1, written := true } }
     s.wrAddr.written = true ∧ s.wrLen.written = true ∧ s.wrAddr.value.toNat + s.wrLen.value.toNat ≤ 4294967296) :=
  ⟨rfl, ⟨rfl, rfl, by decide⟩, rfl, rfl, by decide⟩

theorem witness_WrtileNeedsAValidTile : State.reset.status.tileValid = false ∧ (tiled 0).status.tileValid = true := ⟨rfl, rfl⟩

theorem witness_EmitAppendsTheChecksum : (ready 4).status.fail = false ∧ (ready 4).sinkAnswer 4 = 4 := ⟨rfl, rfl⟩

/-- The digits written as 3 and then 6 bytes, and as 9 at once. -/
theorem witness_WritingInChunksIsTheSame : ∃ s₁ t₁ s₂ t₂ s t : State, ∃ b c : List Byte,
    (Offers .csaWrite s₁ b ∧ exec .csaWrite s₁ = .next t₁ ∧ t₁.status.ok = true) ∧ s₂.crc = t₁.crc ∧ s₂.out = t₁.out ∧
    s₂.status = t₁.status ∧ s₂.tile = t₁.tile ∧ s₂.cfg = t₁.cfg ∧
    (Offers .csaWrite s₂ c ∧ exec .csaWrite s₂ = .next t₂ ∧ t₂.status.ok = true) ∧ s.crc = s₁.crc ∧ s.out = s₁.out ∧
    s.status = s₁.status ∧ s.tile = s₁.tile ∧ s.cfg = s₁.cfg ∧
    (Offers .csaWrite s (b ++ c) ∧ exec .csaWrite s = .next t ∧ t.status.ok = true) ∧ b.length = 3 ∧ c.length = 6 :=
  ⟨{ ready 3 with wrLen := { value := 3, written := true } }, _,
    { ready 6 with
      crc := crcUpdate Config.polyR crcInit [0x31, 0x32, 0x33], out := [0x31, 0x32, 0x33]
      status := { Status.reset with ok := true }
      wrAddr := { value := 0x1003, written := true }, wrLen := { value := 6, written := true } }, _,
    ready 9, _, [0x31, 0x32, 0x33], [0x34, 0x35, 0x36, 0x37, 0x38, 0x39],
    ⟨⟨rfl, rfl, by decide, rfl⟩, rfl, by decide +kernel⟩, by decide +kernel, by decide +kernel,
    by decide +kernel, by decide +kernel, rfl, ⟨⟨rfl, rfl, by decide, rfl⟩, rfl, by decide +kernel⟩,
    rfl, rfl, rfl, rfl, rfl,
    ⟨⟨rfl, rfl, by decide, rfl⟩, rfl, by decide +kernel⟩, rfl, rfl⟩

theorem witness_ResidueAfterEmit :
    (∃ t, exec .csaEmit (ready 4) = .next t ∧ t.status.ok = true ∧ (ready 4).cfg.polyR = 0xEDB88320 ∧
      (ready 4).cfg.xorOut = 0xFFFFFFFF) ∧
    (∃ t, exec .csaEmit { ready 4 with cfg := { Params.reference with xorOut := 0 } } = .next t ∧ t.status.ok = true) :=
  ⟨⟨_, rfl, by decide +kernel, rfl, rfl⟩, _, rfl, by decide +kernel⟩

/-- The invariant holds in the states of the tests. -/
theorem ready_inv (k : Nat) : (ready k).Inv :=
  ⟨rfl, (by decide +kernel : (ready 0).host.wfHost = true), rfl, Nat.le_refl 0, fun h => (nomatch h), fun h => (nomatch h)⟩

theorem witness_StoredChecksumRoundTrip : (ready 4).Inv ∧ ∃ t, exec .csaEmit (ready 4) = .next t ∧ t.status.ok = true :=
  ⟨ready_inv 4, _, rfl, by decide +kernel⟩

/-- Boundaries: k = 0 and k = n. -/
theorem witness_SinkAcceptsAnyPrefix : (0 : Nat) ≤ 9 ∧ (9 : Nat) ≤ 9 := by decide

theorem witness_WrtileEqualsWriteOfTheSameBytes :
    let s : State := { tiled 0 with tile := Memory.ofBytes 0 digits, wrLen := { value := 8256, written := true } }
    s.status.tileValid = true ∧ s.wrAddr.written = true ∧ s.wrLen = { value := 8256, written := true } ∧
    s.wrAddr.value.toNat + 8256 ≤ 4294967296 ∧
    ∀ i, i < 8256 → s.tile.read i = s.host.read (s.wrAddr.value.toNat + i) := by
  refine ⟨rfl, rfl, rfl, by decide, fun i _ => ?_⟩
  show (Memory.ofBytes 0 digits).read i = (Memory.ofBytes 4096 digits).read (4096 + i)
  simp [Memory.read_ofBytes]

theorem witness_EveryStepKeepsTheInvariant : ∃ s t, State.Inv s ∧ step s = .next t ∧ t.out = digits :=
  ⟨{ ready 9 with pending := [.write 0 2] }, _,
    ⟨rfl, by decide +kernel, rfl, Nat.le_refl 0, fun h => (nomatch h), fun h => (nomatch h)⟩, rfl, by decide +kernel⟩

/-- No access that resets the block stands first. -/
theorem not_reset_of_command (s : State) (w : Word) (rest : List Access) (hw : w ≠ 1) (h : s.pending = .write 0 w :: rest)
    (a : Access) (rest' : List Access) (ha : s.pending = a :: rest') : ¬ ResetsBlock a := by
  rw [h] at ha
  cases ha
  intro hr
  rcases hr with hr | hr
  · cases hr
  · cases hr
    exact hw rfl

theorem witness_OutputOnlyGrows : ∃ s t, step s = .next t ∧ (∀ a rest, s.pending = a :: rest → ¬ ResetsBlock a) ∧
    t.out = digits :=
  ⟨{ ready 9 with pending := [.write 0 2] }, _, rfl, not_reset_of_command _ 2 [] (by decide) rfl, by decide +kernel⟩

theorem witness_FailureIsSticky : ∃ s t, step s = .next t ∧ (∀ a rest, s.pending = a :: rest → ¬ ResetsBlock a) ∧
    s.status.fail = true :=
  ⟨{ failed with pending := [.write 0 4] }, _, rfl, not_reset_of_command _ 4 [] (by decide) rfl, rfl⟩

theorem witness_OperationsLeaveTheHostSideAlone : (∃ t, exec .csaWrite (ready 3) = .next t) ∧ Instr.csaWrite ≠ .blkReset :=
  ⟨⟨_, rfl⟩, by decide⟩

theorem witness_ChecksumOperationsLeaveTheTile : ∀ i ∈ [Instr.csaWrite, .csaWrtile, .csaEmit, .csaRead],
    ∃ t, exec i (tiled 3) = .next t := by
  intro i hi
  fin_cases hi <;> exact ⟨_, rfl⟩

theorem witness_TranscoderLeavesTheChecksumState :
    IsPxt .pxtLoadraw ∧ IsPxt .pxtConvertG8 ∧ (∃ t, exec .pxtLoadraw (ready 0) = .next t ∧ t.status.ok = true) ∧
    ∃ t, exec .pxtConvertG8 (ready 0) = .next t ∧ t.status.ok = true :=
  ⟨trivial, trivial, next_of_nextIs (by decide +kernel), next_of_nextIs (by decide +kernel)⟩

/-- Both clauses, and both cases of the second. -/
theorem witness_StatusReportsTheOutcome : (∃ t, exec .csaRead (ready 0) = .next t) ∧
    (∃ t, exec .csaWrite (ready 9) = .next t ∧ t.status.ok = true) ∧
    ∃ t, exec .csaWrite (ready 8) = .next t ∧ t.status.ok = false :=
  ⟨⟨_, rfl⟩, ⟨_, rfl, by decide +kernel⟩, _, rfl, by decide +kernel⟩

theorem witness_OperationsStopOnlyAsTheSpecSays : ∃ r, exec .csaWrite State.reset = .refused r := ⟨_, rfl⟩

theorem witness_StatusReadShowsItsFields : State.pending { failed with pending := [.read 1] } = [.read 1] := rfl

theorem witness_OperandRegistersHoldWhatTheHostWrites :
    (ready 0).operandReg .imgH = some { value := 48, written := true } := rfl

/-- Boundaries: the register numbers 1, 2, 5, and the first number that names none. -/
theorem witness_OtherRegisterAccesses : ((1 : Nat) = 1 ∨ (1 : Nat) = 2 ∨ (1 : Nat) = 5) ∧
    ((5 : Nat) = 1 ∨ (5 : Nat) = 2 ∨ (5 : Nat) = 5) ∧ 9 < 10 := by decide

theorem witness_UnwrittenOperandReadsComplete : State.reset.operandReg .wrAddr = some { value := 0, written := false } := rfl

/-- The last TILE byte, valid and not, and the first index past it. -/
theorem witness_TileReads : 8255 < 8256 ∧ (tiled 0).status.tileValid = true ∧ (ready 0).status.tileValid = false ∧
    8256 ≤ 8256 := by decide

theorem witness_HostStoreChangesOneByte : (ready 0).host.wfHost = true := by decide +kernel

/-- One state per clause, in order: a source that ends at the last HOST byte, no source, one byte too far. -/
theorem witness_LoadrawCopiesTheBuffer :
    ((atTop 8256).srcAddr.written = true ∧ (atTop 8256).srcAddr.value.toNat + 8256 ≤ 4294967296) ∧
    State.reset.srcAddr.written = false ∧
    ((atTop 8255).srcAddr.written = true ∧ 4294967296 < (atTop 8255).srcAddr.value.toNat + 8256) := by decide

/-- One state per clause, in order; the least value with a reserved bit, a range of 2^32 + 1. -/
theorem witness_ConvertRefusals :
    State.reset.imgFmt.written = false ∧
    (let s : State := { ready 0 with imgFmt := { value := 0x00010000, written := true } }
     s.srcAddr.written = true ∧ s.imgW.written = true ∧ s.imgH.written = true ∧ s.imgFmt.written = true ∧
       65536 ≤ s.imgFmt.value.toNat) ∧
    ((atTop 12383).srcAddr.written = true ∧ (atTop 12383).imgW.written = true ∧ (atTop 12383).imgH.written = true ∧
      (atTop 12383).imgFmt.written = true ∧ (atTop 12383).imgFmt.value = Format.rgb8.word ∧
      4294967296 < (atTop 12383).srcAddr.value.toNat + srcBytesOf .rgb8) := by decide

/-- One pixel too narrow, and one line too high; both clauses. -/
theorem witness_WrongDimensionsRaiseInvalidDimensions :
    (let s : State := { atTop 12384 with imgW := { value := 85, written := true } }
     ¬ Is86By48 s ∧ SourceReady s (srcBytesOf .rgb8) ∧ s.imgFmt.written = true ∧ s.imgFmt.value.toNat < 65536 ∧
       ∀ f : Format, s.imgFmt.value = f.word → s.srcAddr.value.toNat + srcBytesOf f ≤ 4294967296) ∧
    ¬ Is86By48 { ready 0 with imgH := { value := 49, written := true } } := by
  refine ⟨⟨fun h => absurd h.1 (by decide), ⟨rfl, rfl, rfl, by decide⟩, rfl, by decide, fun f h => ?_⟩,
    fun h => absurd h.2 (by decide)⟩
  cases f <;> first | decide | exact absurd h (by decide)

/-- 16-bit greyscale, and the greatest value with the reserved bits 0. -/
theorem witness_UnknownFormatsRaiseUnsupportedFormat : ∀ v ∈ ([0x00000210, 0x0000FFFF] : List Word),
    let s : State := { ready 0 with imgFmt := { value := v, written := true } }
    s.srcAddr.written = true ∧ s.imgW.written = true ∧ s.imgH.written = true ∧ s.imgFmt.written = true ∧ Is86By48 s ∧
    s.imgFmt.value.toNat < 65536 ∧ ∀ f : Format, s.imgFmt.value ≠ f.word := by
  intro v hv
  fin_cases hv <;> exact ⟨rfl, rfl, rfl, rfl, ⟨rfl, rfl⟩, by decide, fun f => by cases f <;> decide⟩

theorem witness_ConvertRunsTheSelectedFormat : (atTop 12384).imgFmt = { value := Format.rgb8.word, written := true } ∧
    SourceReady (atTop 12384) (srcBytesOf .rgb8) ∧ Is86By48 (atTop 12384) := ⟨rfl, ⟨rfl, rfl, rfl, by decide⟩, rfl, rfl⟩

theorem witness_ConvertRgb8Words : (SourceReady (atTop 12384) 12384 ∧ Is86By48 (atTop 12384)) ∧ 4127 < 4128 :=
  ⟨⟨⟨rfl, rfl, rfl, by decide⟩, rfl, rfl⟩, by decide⟩

theorem witness_ConvertRgba8Words : (SourceReady (atTop 16512) 16512 ∧ Is86By48 (atTop 16512)) ∧ 4127 < 4128 :=
  ⟨⟨⟨rfl, rfl, rfl, by decide⟩, rfl, rfl⟩, by decide⟩

theorem witness_ConvertRgb16Words : (SourceReady (atTop 24768) 24768 ∧ Is86By48 (atTop 24768)) ∧ 4127 < 4128 :=
  ⟨⟨⟨rfl, rfl, rfl, by decide⟩, rfl, rfl⟩, by decide⟩

theorem witness_ConvertRgba16Words : (SourceReady (atTop 33024) 33024 ∧ Is86By48 (atTop 33024)) ∧ 4127 < 4128 :=
  ⟨⟨⟨rfl, rfl, rfl, by decide⟩, rfl, rfl⟩, by decide⟩

theorem witness_ConvertG1Words : (SourceReady (atTop 516) 516 ∧ Is86By48 (atTop 516)) ∧ 4127 < 4128 :=
  ⟨⟨⟨rfl, rfl, rfl, by decide⟩, rfl, rfl⟩, by decide⟩

theorem witness_ConvertG2Words : (SourceReady (atTop 1032) 1032 ∧ Is86By48 (atTop 1032)) ∧ 4127 < 4128 :=
  ⟨⟨⟨rfl, rfl, rfl, by decide⟩, rfl, rfl⟩, by decide⟩

theorem witness_ConvertG4Words : (SourceReady (atTop 2064) 2064 ∧ Is86By48 (atTop 2064)) ∧ 4127 < 4128 :=
  ⟨⟨⟨rfl, rfl, rfl, by decide⟩, rfl, rfl⟩, by decide⟩

theorem witness_ConvertG8Words : (SourceReady (atTop 4128) 4128 ∧ Is86By48 (atTop 4128)) ∧ 4127 < 4128 :=
  ⟨⟨⟨rfl, rfl, rfl, by decide⟩, rfl, rfl⟩, by decide⟩

theorem witness_ConvertGa1Words : (SourceReady (atTop 1032) 1032 ∧ Is86By48 (atTop 1032)) ∧ 4127 < 4128 :=
  ⟨⟨⟨rfl, rfl, rfl, by decide⟩, rfl, rfl⟩, by decide⟩

theorem witness_ConvertGa2Words : (SourceReady (atTop 2064) 2064 ∧ Is86By48 (atTop 2064)) ∧ 4127 < 4128 :=
  ⟨⟨⟨rfl, rfl, rfl, by decide⟩, rfl, rfl⟩, by decide⟩

theorem witness_ConvertGa4Words : (SourceReady (atTop 4128) 4128 ∧ Is86By48 (atTop 4128)) ∧ 4127 < 4128 :=
  ⟨⟨⟨rfl, rfl, rfl, by decide⟩, rfl, rfl⟩, by decide⟩

theorem witness_ConvertGa8Words : (SourceReady (atTop 8256) 8256 ∧ Is86By48 (atTop 8256)) ∧ 4127 < 4128 :=
  ⟨⟨⟨rfl, rfl, rfl, by decide⟩, rfl, rfl⟩, by decide⟩

/-- Two sources at different addresses with the same first bytes, and different old tiles. -/
theorem witness_ConversionDependsOnItsSourceOnly : ∃ s s' : State,
    (∃ t, exec Format.g1.instr s = .next t ∧ t.status.ok = true) ∧
    (∃ t', exec Format.g1.instr s' = .next t' ∧ t'.status.ok = true) ∧
    s.cfg.ramp = s'.cfg.ramp ∧ s.cfg.gaLow1 = s'.cfg.gaLow1 ∧ s.cfg.gaLow2 = s'.cfg.gaLow2 ∧
    (∀ i, i < srcBytesOf .g1 → srcNat s i = srcNat s' i) ∧ s.srcAddr ≠ s'.srcAddr ∧ s.tile ≠ s'.tile := by
  refine ⟨ready 0, { ready 0 with host := Memory.ofBytes 0x2000 digits, srcAddr := { value := 0x2000, written := true },
                                  tile := [(0, 1)] }, next_of_nextIs (by decide +kernel), next_of_nextIs (by decide +kernel),
    rfl, rfl, rfl, fun i _ => ?_, by decide, by decide⟩
  show ((Memory.ofBytes 4096 digits).read (4096 + i)).toNat = ((Memory.ofBytes 8192 digits).read (8192 + i)).toNat
  simp [Memory.read_ofBytes]

/-- One format for each clause, the last pixel. -/
theorem witness_OutputRanges : (∀ f ∈ [Format.g1, .g2, .g4, .rgb8], ∃ t, exec f.instr (ready 0) = .next t ∧ t.status.ok = true) ∧
    4127 < 4128 := by
  refine ⟨fun f hf => ?_, by decide⟩
  fin_cases hf <;> exact next_of_nextIs (by decide +kernel)

end Sys2Proof.Tests
end

section
/-! PROOFS. How an operation reports its outcome in STATUS (00_scope R15; 10_state R27, R30; 60_exceptions R180). -/

namespace Sys2Proof.Machine

/-- STATUS reports an outcome: success with no error, or failure with an error (R15, R190). After reset it reports none. -/
def Status.ReportsOutcome (st : Status) : Prop :=
  (st.ok = true ∧ st.err = .noError) ∨ (st.ok = false ∧ st.err ≠ .noError)

theorem Status.reportsOutcome_succeed (st : Status) : st.succeed.ReportsOutcome := .inl ⟨rfl, rfl⟩

theorem Status.reportsOutcome_raise {e : ErrCode} (he : e ≠ .noError) (st : Status) : (st.raise e).ReportsOutcome :=
  .inr ⟨rfl, he⟩

@[simp] theorem ErrCode.code_noError : ErrCode.code .noError = 0 := rfl

/-- The errors have the codes 1 to 3 (R180). -/
theorem ErrCode.code_range {e : ErrCode} (he : e ≠ .noError) : 1 ≤ e.code.toNat ∧ e.code.toNat ≤ 3 := by
  cases e with
  | noError => exact absurd rfl he
  | invalidDimensions => decide
  | unsupportedFormat => decide
  | ioWriteError => decide

theorem Status.ReportsOutcome.codes {st : Status} (h : st.ReportsOutcome) :
    (st.ok = true ∧ st.err.code.toNat = 0) ∨ (st.ok = false ∧ 1 ≤ st.err.code.toNat ∧ st.err.code.toNat ≤ 3) := by
  obtain ⟨hok, herr⟩ | ⟨hok, herr⟩ := h
  · exact .inl ⟨hok, by simp [herr]⟩
  · exact .inr ⟨hok, ErrCode.code_range herr⟩

/-- Each of the four ends of a tracked write reports: the standing failure and the partial failure raise IoWriteError, the empty
and the whole write succeed (R107 to R109). -/
theorem State.trackedWrite_reportsOutcome (l : List Byte) (s : State) : (s.trackedWrite l).status.ReportsOutcome := by
  have ioWrite : ErrCode.ioWriteError ≠ .noError := by decide
  obtain ⟨-, ht⟩ | ⟨-, -, ht⟩ | ⟨-, -, -, ht⟩ | ⟨-, -, -, ht⟩ := s.trackedWrite_cases l
  · rw [ht]
    exact Status.reportsOutcome_raise ioWrite s.status
  · rw [ht]
    exact Status.reportsOutcome_succeed s.status
  · rw [ht]
    exact Status.reportsOutcome_raise ioWrite s.status.withFail
  · rw [ht]
    exact Status.reportsOutcome_succeed s.status

theorem State.loadTile_reportsOutcome (l : List Byte) (s : State) : (s.loadTile l).status.ReportsOutcome :=
  Status.reportsOutcome_succeed _

theorem State.failTile_reportsOutcome {e : ErrCode} (he : e = .invalidDimensions ∨ e = .unsupportedFormat) (s : State) :
    (s.failTile e).status.ReportsOutcome :=
  Status.reportsOutcome_raise (by rintro rfl; simp at he) _

/-- An operation that completes, other than BLK.RESET and CSA.READ, reports its outcome. -/
theorem exec_reportsOutcome {i : Instr} {s t : State} (h : exec i s = .next t) (hread : i ≠ .csaRead)
    (hreset : i ≠ .blkReset) : t.status.ReportsOutcome := by
  obtain ⟨hi, -⟩ | ⟨hi, -⟩ | ⟨l, -, rfl⟩ | ⟨-, ⟨l, -, rfl⟩ | ⟨e, he, rfl⟩⟩ := exec_next h
  · exact absurd hi hreset
  · exact absurd hi hread
  · exact s.trackedWrite_reportsOutcome l
  · exact s.loadTile_reportsOutcome l
  · exact s.failTile_reportsOutcome he

/-- CSA.READ leaves STATUS alone (R117). -/
theorem exec_csaRead_status {s t : State} (h : exec .csaRead s = .next t) : t.status = s.status := by
  cases h
  rfl

/-- Settles O33, from the list of everything an operation can do (`exec_next`): each end of a tracked write or of a PXT operation
reports success or one of the three errors. -/
theorem statusReportsTheOutcome : Obligations.StatusReportsTheOutcome := by
  unfold Obligations.StatusReportsTheOutcome
  intro i s t h
  refine ⟨?_, fun hread hreset => (exec_reportsOutcome h hread hreset).codes⟩
  rintro rfl
  exact exec_csaRead_status h

end Sys2Proof.Machine
end

section
/-! PROOFS. What the operations leave unchanged, and what no step but a reset undoes (10_state R21, R28, R29, R31 to R37;
20_memory R51). -/

namespace Sys2Proof.Machine

/-! ### The tracked write: the fields it does not reach, and the two it only lets grow -/

/-- A tracked write reaches CRC, WR_DONE, OUT, STATUS and the sink's bookkeeping only (R105 to R109). -/
theorem State.trackedWrite_frame (l : List Byte) (s : State) :
    ∃ crc wrDone out status answers draws, s.trackedWrite l =
      { s with crc := crc, wrDone := wrDone, out := out, status := status, sinkAnswers := answers, draws := draws } := by
  obtain ⟨-, ht⟩ | ⟨-, -, ht⟩ | ⟨-, -, -, ht⟩ | ⟨-, -, -, ht⟩ := s.trackedWrite_cases l
  all_goals exact ⟨_, _, _, _, _, _, ht⟩

@[simp] theorem State.trackedWrite_host (l : List Byte) (s : State) : (s.trackedWrite l).host = s.host := by
  obtain ⟨_, _, _, _, _, _, ht⟩ := s.trackedWrite_frame l
  rw [ht]

@[simp] theorem State.trackedWrite_cfg (l : List Byte) (s : State) : (s.trackedWrite l).cfg = s.cfg := by
  obtain ⟨_, _, _, _, _, _, ht⟩ := s.trackedWrite_frame l
  rw [ht]

@[simp] theorem State.trackedWrite_pending (l : List Byte) (s : State) : (s.trackedWrite l).pending = s.pending := by
  obtain ⟨_, _, _, _, _, _, ht⟩ := s.trackedWrite_frame l
  rw [ht]

@[simp] theorem State.trackedWrite_tile (l : List Byte) (s : State) : (s.trackedWrite l).tile = s.tile := by
  obtain ⟨_, _, _, _, _, _, ht⟩ := s.trackedWrite_frame l
  rw [ht]

@[simp] theorem State.trackedWrite_operandReg (l : List Byte) (s : State) (r : Reg) :
    (s.trackedWrite l).operandReg r = s.operandReg r := by
  obtain ⟨_, _, _, _, _, _, ht⟩ := s.trackedWrite_frame l
  rw [ht]
  rfl

/-- Each end of a tracked write sets OK, FAIL and ERR and keeps TILE_VALID (R29). -/
@[simp] theorem State.trackedWrite_tileValid (l : List Byte) (s : State) :
    (s.trackedWrite l).status.tileValid = s.status.tileValid := by
  obtain ⟨-, ht⟩ | ⟨-, -, ht⟩ | ⟨-, -, -, ht⟩ | ⟨-, -, -, ht⟩ := s.trackedWrite_cases l
  all_goals simp [ht]

/-- The accepted bytes, perhaps none, go to the end of OUT (R106). -/
theorem State.trackedWrite_out (l : List Byte) (s : State) : s.out <+: (s.trackedWrite l).out := by
  obtain ⟨-, ht⟩ | ⟨-, -, ht⟩ | ⟨-, -, -, ht⟩ | ⟨-, -, -, ht⟩ := s.trackedWrite_cases l
  · rw [ht]
    exact List.prefix_rfl
  · rw [ht]
    exact List.prefix_rfl
  · rw [ht]
    exact List.prefix_append _ _
  · rw [ht]
    exact List.prefix_append _ _

/-- A standing failure stands after the tracked write it ends (R108). -/
theorem State.trackedWrite_fail {s : State} (l : List Byte) (hf : s.status.fail = true) :
    (s.trackedWrite l).status.fail = true := by
  simp [State.trackedWrite, hf]

/-! ### The frame of the operations -/

/-- No operation, BLK.RESET included, writes HOST, a parameter, or the accesses still to come (R21, R36). -/
theorem exec_hostSide {i : Instr} {s t : State} (h : exec i s = .next t) :
    t.host = s.host ∧ t.cfg = s.cfg ∧ t.pending = s.pending := by
  obtain ⟨-, rfl⟩ | ⟨-, rfl⟩ | ⟨l, -, rfl⟩ | ⟨-, ⟨l, -, rfl⟩ | ⟨e, -, rfl⟩⟩ := exec_next h
  case inr.inr.inl => exact ⟨s.trackedWrite_host l, s.trackedWrite_cfg l, s.trackedWrite_pending l⟩
  all_goals exact ⟨rfl, rfl, rfl⟩

/-- Of the operations only BLK.RESET writes an operand register (R31, R33, R34). -/
theorem exec_operandReg {i : Instr} {s t : State} (h : exec i s = .next t) (hi : i ≠ .blkReset) (r : Reg) :
    t.operandReg r = s.operandReg r := by
  obtain ⟨hreset, -⟩ | ⟨-, rfl⟩ | ⟨l, -, rfl⟩ | ⟨-, ⟨l, -, rfl⟩ | ⟨e, -, rfl⟩⟩ := exec_next h
  case inl => exact absurd hreset hi
  case inr.inr.inl => exact s.trackedWrite_operandReg l r
  all_goals rfl

/-- The six operand registers, asked for by name or field by field. -/
theorem State.operandReg_eq_iff {s t : State} :
    (∀ r, t.operandReg r = s.operandReg r) ↔
      t.wrAddr = s.wrAddr ∧ t.wrLen = s.wrLen ∧ t.srcAddr = s.srcAddr ∧ t.imgW = s.imgW ∧ t.imgH = s.imgH ∧
        t.imgFmt = s.imgFmt := by
  constructor
  · intro h
    exact ⟨Option.some.inj (h .wrAddr), Option.some.inj (h .wrLen), Option.some.inj (h .srcAddr),
      Option.some.inj (h .imgW), Option.some.inj (h .imgH), Option.some.inj (h .imgFmt)⟩
  · rintro ⟨ha, hl, hs, hw, hh, hf⟩ r
    simp only [State.operandReg, ha, hl, hs, hw, hh, hf]

/-- Settles O30, from the list of everything an operation can do (`exec_next`). -/
theorem operationsLeaveTheHostSideAlone : Obligations.OperationsLeaveTheHostSideAlone := by
  unfold Obligations.OperationsLeaveTheHostSideAlone
  intro i s t h
  obtain ⟨hhost, hcfg, hpending⟩ := exec_hostSide h
  exact ⟨fun a => by rw [hhost], hhost, hcfg, hpending,
    fun hi => State.operandReg_eq_iff.mp (exec_operandReg h hi)⟩

/-- An operation of neither the transcoder nor BLK.RESET leaves TILE and TILE_VALID as they were (R29, R51). -/
theorem exec_tile {i : Instr} {s t : State} (h : exec i s = .next t) (hreset : i ≠ .blkReset) (hpxt : ¬ IsPxt i) :
    t.tile = s.tile ∧ t.status.tileValid = s.status.tileValid := by
  obtain ⟨hi, -⟩ | ⟨-, rfl⟩ | ⟨l, -, rfl⟩ | ⟨hi, -⟩ := exec_next h
  · exact absurd hi hreset
  · exact ⟨rfl, rfl⟩
  · exact ⟨s.trackedWrite_tile l, s.trackedWrite_tileValid l⟩
  · exact absurd hi hpxt

/-- Settles O31: CSA.READ returns a word and the other three are tracked writes, and neither reaches TILE or TILE_VALID. -/
theorem checksumOperationsLeaveTheTile : Obligations.ChecksumOperationsLeaveTheTile := by
  unfold Obligations.ChecksumOperationsLeaveTheTile
  intro i s t hi h
  have hreset : i ≠ .blkReset := by
    rintro rfl
    simp at hi
  have hpxt : ¬ IsPxt i := by
    simp only [List.mem_cons, List.not_mem_nil, or_false] at hi
    obtain rfl | rfl | rfl | rfl := hi
    all_goals exact id
  obtain ⟨htile, hvalid⟩ := exec_tile h hreset hpxt
  exact ⟨fun a => by rw [htile], htile, hvalid⟩

/-! ### Within one invocation OUT only grows and FAIL only rises -/

/-- What holds between two states with no reset between them: OUT has only grown (R37) and FAIL has not been cleared (R28). -/
structure State.Continues (s t : State) : Prop where
  outGrows : s.out <+: t.out
  failStays : s.status.fail = true → t.status.fail = true

/-- A change that reaches neither OUT nor FAIL continues the invocation. -/
theorem State.Continues.of_eq {s t : State} (hout : t.out = s.out) (hfail : t.status.fail = s.status.fail) : s.Continues t :=
  ⟨hout ▸ List.prefix_rfl, fun hf => hfail.trans hf⟩

/-- Of the operations only BLK.RESET starts a new invocation (R104). -/
theorem exec_continues {i : Instr} {s t : State} (h : exec i s = .next t) (hi : i ≠ .blkReset) : s.Continues t := by
  obtain ⟨hreset, -⟩ | ⟨-, rfl⟩ | ⟨l, -, rfl⟩ | ⟨-, ⟨l, -, rfl⟩ | ⟨e, -, rfl⟩⟩ := exec_next h
  case inl => exact absurd hreset hi
  case inr.inr.inl => exact ⟨s.trackedWrite_out l, State.trackedWrite_fail l⟩
  all_goals exact .of_eq rfl rfl

/-- A step whose access is no reset continues the invocation: it runs an operation other than BLK.RESET, or an access that
reaches neither OUT nor FAIL. -/
theorem step_continues {s t : State} (h : step s = .next t)
    (hreset : ∀ a rest, s.pending = a :: rest → ¬ ResetsBlock a) : s.Continues t := by
  obtain ⟨-, rfl⟩ | ⟨a, rest, hp, haccess⟩ := step_next h
  · exact .of_eq rfl rfl
  have hno : ¬ ResetsBlock a := hreset a rest hp
  obtain ⟨i, hi, hblk⟩ | ⟨ha, -⟩ | ⟨n, v, r, -, -, rfl⟩ | ⟨v, rfl⟩ | ⟨v, rfl⟩ | ⟨addr, b, -, rfl⟩ := haccess
  · obtain ⟨hout, hfail⟩ := exec_continues hi fun hreset => hno (hblk hreset)
    exact ⟨hout, hfail⟩
  · exact absurd (.inl ha) hno
  · exact .of_eq (State.hostWrite_out r v _) (by rw [State.hostWrite_status])
  all_goals exact .of_eq rfl rfl

/-- Settles O28: a step without a reset continues the invocation. -/
theorem outputOnlyGrows : Obligations.OutputOnlyGrows := by
  unfold Obligations.OutputOnlyGrows
  intro s t h hreset
  exact (step_continues h hreset).outGrows

/-- Settles O29: a step without a reset continues the invocation. -/
theorem failureIsSticky : Obligations.FailureIsSticky := by
  unfold Obligations.FailureIsSticky
  intro s t h hreset
  exact (step_continues h hreset).failStays

/-! ### The refusals of CSA.WRITE -/

/-- CSA.WRITE is refused, whatever FAIL is, while one of its two operand registers is unwritten (R31, U7). -/
theorem exec_csaWrite_unwritten {s : State} (h : s.wrAddr.written = false ∨ s.wrLen.written = false) :
    ∃ r, exec .csaWrite s = .refused (.operandNotWritten r) := by
  have hnone : s.firstUnwritten [.wrAddr, .wrLen] ≠ none := by
    rw [Ne, State.firstUnwritten_write]
    rintro ⟨ha, hl⟩
    simp [ha, hl] at h
  obtain ⟨r, hr⟩ := Option.ne_none_iff_exists'.mp hnone
  exact ⟨r, by simp only [exec, execCsaWrite, hr]⟩

/-- CSA.WRITE is refused where its range passes the top of the HOST space (R31, U6). -/
theorem exec_csaWrite_wraps {s : State} (ha : s.wrAddr.written = true) (hl : s.wrLen.written = true)
    (h : 4294967296 < s.wrAddr.value.toNat + s.wrLen.value.toNat) : exec .csaWrite s = .refused .operandRangeWraps := by
  have hwritten := s.firstUnwritten_write.mpr ⟨ha, hl⟩
  have hrange : ¬ rangeFits s.wrAddr.value s.wrLen.value.toNat = true := by
    rw [rangeFits_iff]
    omega
  simp only [exec, execCsaWrite, hwritten, if_neg hrange]

/-- Settles O18: the two refusals, and otherwise the tracked write of the bytes CSA.WRITE offers. -/
theorem csaWriteRefusals : Obligations.CsaWriteRefusals := by
  unfold Obligations.CsaWriteRefusals
  intro s
  exact ⟨exec_csaWrite_unwritten, exec_csaWrite_wraps,
    fun ha hl hfits => ⟨_, exec_of_offers (i := .csaWrite) ⟨ha, hl, hfits, rfl⟩⟩⟩

end Sys2Proof.Machine
end

section
/-! PROOFS. The host's accesses: registers by number, TILE bytes, the host's own store (10_state R24, R27 to R36). -/

namespace Sys2Proof.Machine

/-! ### One access -/

/-- A step runs the access at the front of the list, on the state with that access taken off. -/
theorem step_of_pending {s : State} {a : Access} {rest : List Access} (h : s.pending = a :: rest) :
    step s = runAccess a { s with pending := rest } := by
  simp only [step, fetchAccess, h]

/-- A step runs an access put before those a state already holds. -/
theorem step_of_cons (a : Access) (s : State) : step { s with pending := a :: s.pending } = runAccess a s :=
  step_of_pending rfl

/-- A host write of a register other than CMD, by the register's number (R24). -/
theorem runAccess_write {r : Reg} (hr : r ≠ .cmd) (v : Word) (s : State) :
    runAccess (.write r.number v) s = .next (s.hostWrite r v) := by
  cases r with
  | cmd => exact absurd rfl hr
  | _ => rfl

/-- A host read of a register by its number; CSUM's, which is the operation CSA.READ, returns the same word (R24, R117). -/
theorem runAccess_read (r : Reg) (s : State) : runAccess (.read r.number) s = .next (s.hostRead r) := by
  cases r <;> rfl

theorem regOfNumber_eq_none {n : Nat} (h : 9 < n) : regOfNumber n = none := by
  obtain ⟨k, rfl⟩ := Nat.exists_eq_add_of_le' (Nat.succ_le_of_lt h)
  rfl

/-! ### Operand registers -/

theorem State.hostRead_operandReg {r : Reg} {o : OperandReg} {s : State} (h : s.operandReg r = some o) :
    s.hostRead r = s.readOperand o := by
  cases r
  case cmd | status | csum | wrDone => cases h
  all_goals
    cases h
    rfl

theorem State.readOperand_written {o : OperandReg} (h : o.written = true) (s : State) :
    s.readOperand o = s.returnWord o.value := if_pos h

theorem State.readOperand_unwritten {o : OperandReg} (h : o.written = false) (s : State) :
    s.readOperand o = s.returnFree (Config.unspecifiedWord s.draws) := if_neg (by simp [h])

/-- Settles O37, register by register through `runAccess_write` and `runAccess_read`. -/
theorem operandRegistersHoldWhatTheHostWrites : Obligations.OperandRegistersHoldWhatTheHostWrites := by
  unfold Obligations.OperandRegistersHoldWhatTheHostWrites
  constructor
  · intro s v
    have hwrite : ∀ r : Reg, r ≠ .cmd →
        step { s with pending := .write r.number v :: s.pending } = .next (s.hostWrite r v) :=
      fun r hr => (step_of_cons _ s).trans (runAccess_write hr v s)
    exact ⟨hwrite .wrAddr (by decide), hwrite .wrLen (by decide), hwrite .srcAddr (by decide),
      hwrite .imgW (by decide), hwrite .imgH (by decide), hwrite .imgFmt (by decide)⟩
  · intro s r o ho hwritten
    rw [step_of_cons, runAccess_read, State.hostRead_operandReg ho, State.readOperand_written hwritten]
    rfl

/-- Settles O39: the word is the draw's free value. -/
theorem unwrittenOperandReadsComplete : Obligations.UnwrittenOperandReadsComplete := by
  unfold Obligations.UnwrittenOperandReadsComplete
  intro s r o ho hunwritten
  refine ⟨Config.unspecifiedWord s.draws, ?_⟩
  rw [step_of_cons, runAccess_read, State.hostRead_operandReg ho, State.readOperand_unwritten hunwritten]
  rfl

/-! ### The other registers, and the numbers that name none -/

/-- Settles O38: the read-only registers take no write, and a number above 9 names none. -/
theorem otherRegisterAccesses : Obligations.OtherRegisterAccesses := by
  unfold Obligations.OtherRegisterAccesses
  intro s
  refine ⟨?_, ?_, ?_, ?_⟩
  · intro n v hn
    rw [step_of_cons]
    obtain rfl | rfl | rfl := hn
    · exact runAccess_write (r := .status) (by decide) v s
    · exact runAccess_write (r := .csum) (by decide) v s
    · exact runAccess_write (r := .wrDone) (by decide) v s
  · exact (step_of_cons _ s).trans (runAccess_read .cmd s)
  · exact (step_of_cons _ s).trans (runAccess_read .wrDone s)
  · intro n v hn
    have hnone := regOfNumber_eq_none hn
    rw [step_of_cons, step_of_cons]
    exact ⟨by simp only [runAccess, busWrite, hnone], by simp only [runAccess, busRead, hnone]⟩

/-! ### STATUS -/

/-- Every bit of a STATUS word: OK, FAIL, TILE_VALID, five zeros, and ERR, above which its own bits are zeros. -/
theorem Status.getLsbD_toWord (st : Status) (i : Nat) :
    st.toWord.getLsbD i =
      if i = 0 then st.ok else if i = 1 then st.fail else if i = 2 then st.tileValid
      else decide (8 ≤ i) && st.err.code.getLsbD (i - 8) := by
  simp only [Status.toWord, BitVec.getLsbD_append, BitVec.getLsbD_ofBool]
  match i with
  | 0 => simp
  | 1 => simp
  | 2 => simp
  | n + 3 =>
    rcases Nat.lt_or_ge n 5 with h | h
    · simp [h]
    · have inside : st.err.code.getLsbD (n - 5) = true → n - 5 < 8 := BitVec.lt_of_getLsbD
      simpa [h, Nat.not_lt.mpr h] using inside

/-- ERR stands in bits 15:8 of a STATUS word (R30). -/
theorem Status.extract_err_toWord (st : Status) : st.toWord.extractLsb' 8 8 = st.err.code := by
  apply BitVec.eq_of_getLsbD_eq
  intro i hi
  rw [BitVec.getLsbD_extractLsb', st.getLsbD_toWord, if_neg (by omega), if_neg (by omega), if_neg (by omega)]
  simp [hi]

theorem Status.errField_toWord (st : Status) : st.toWord.toNat / 256 % 256 = st.err.code.toNat := by
  rw [← st.extract_err_toWord, BitVec.extractLsb'_toNat, Nat.shiftRight_eq_div_pow]

/-- Settles O36: STATUS is read as `Status.toWord`, bit by bit. -/
theorem statusReadShowsItsFields : Obligations.StatusReadShowsItsFields := by
  unfold Obligations.StatusReadShowsItsFields
  intro s rest hp
  have bit := s.status.getLsbD_toWord
  refine ⟨s.status.toWord, ?_, bit 0, bit 1, bit 2, s.status.errField_toWord, ?_, ?_⟩
  · rw [step_of_pending hp]
    exact runAccess_read .status _
  · intro i hi hlt
    rw [bit, if_neg (by omega), if_neg (by omega), if_neg (by omega), decide_eq_false (by omega), Bool.false_and]
  · intro i hi
    rw [bit, if_neg (by omega), if_neg (by omega), if_neg (by omega), BitVec.getLsbD_of_ge _ _ (by omega), Bool.and_false]

/-! ### TILE and HOST bytes -/

theorem runAccess_readTile {i : Nat} (hi : i < 8256) (s : State) :
    runAccess (.readTile i) s = .next (s.hostReadTile i) := if_pos hi

theorem State.hostReadTile_valid {s : State} (h : s.status.tileValid = true) (i : Nat) :
    s.hostReadTile i = s.returnWord (BitVec.ofNat 32 (s.tile.read i).toNat) := by
  rw [State.hostReadTile, if_pos h, BitVec.ofNat_toNat]

theorem State.hostReadTile_notValid {s : State} (h : s.status.tileValid = false) (i : Nat) :
    s.hostReadTile i = s.returnFree (BitVec.ofNat 32 (Config.unspecifiedByte s.draws).toNat) := by
  rw [State.hostReadTile, if_neg (Bool.not_eq_true _ ▸ h), BitVec.ofNat_toNat]

/-- Settles O40, by TILE_VALID and by the end of the buffer. -/
theorem tileReads : Obligations.TileReads := by
  unfold Obligations.TileReads
  intro s i
  refine ⟨?_, ?_, ?_⟩
  · intro hi hvalid
    rw [step_of_cons, runAccess_readTile hi, State.hostReadTile_valid hvalid]
    rfl
  · intro hi hvalid
    refine ⟨Config.unspecifiedByte s.draws, ?_⟩
    rw [step_of_cons, runAccess_readTile hi, State.hostReadTile_notValid hvalid]
    rfl
  · intro hi
    rw [step_of_cons]
    exact if_neg (Nat.not_lt.mpr hi)

/-- Settles O41, by read after write in a canonical memory (`Memory.read_write`). -/
theorem hostStoreChangesOneByte : Obligations.HostStoreChangesOneByte := by
  unfold Obligations.HostStoreChangesOneByte
  intro s a b hwf
  have hread := Memory.read_write hwf a.toNat b
  refine ⟨s.host.write a.toNat b, step_of_cons _ s, Memory.wfIn_write hwf (Nat.zero_le _) a.isLt, ?_, ?_⟩
  · rw [hread, if_pos rfl]
  · intro x hx
    rw [hread, if_neg hx]

/-! ### The state after reset -/

/-- Settles O9: each is the value the reset state is written with. -/
theorem resetStateHasTheStatedValues : Obligations.ResetStateHasTheStatedValues := by
  unfold Obligations.ResetStateHasTheStatedValues
  exact ⟨rfl, by decide, by decide, rfl, rfl, rfl, rfl, rfl, rfl, rfl, rfl⟩

/-- Settles O27: nothing has been sent, so CRC is its initial value; both memories list nothing (log 6, 7). -/
theorem resetMeetsTheInvariant : Obligations.ResetMeetsTheInvariant where
  crcTracksOut := rfl
  hostWf := rfl
  tileWf := rfl
  doneInOut := Nat.le_refl 0
  okNoError := fun _ => rfl
  ioErrorFails := nofun

end Sys2Proof.Machine
end

section
/-! PROOFS. What the Pixel Transcoder's operations reach and how many bytes they read (20_memory R51, R57;
41_pixel_transcoder R142). -/

namespace Sys2Proof.Machine

/-! ### The frame of the transcoder -/

/-- Only the Checksum Accumulator's operations offer bytes to the sink (R51). -/
theorem Offers.not_isPxt {i : Instr} {s : State} {l : List Byte} (h : Offers i s l) : ¬ IsPxt i := by
  cases i
  case csaWrite => exact id
  case csaWrtile => exact id
  case csaEmit => exact id
  all_goals exact h.elim

/-- Everything a transcoder operation that answers a next state can do: load the tile or raise an error (R137, R138). -/
theorem exec_pxt_next {i : Instr} {s t : State} (hi : IsPxt i) (h : exec i s = .next t) :
    (∃ l, t = s.loadTile l) ∨ ∃ e, t = s.failTile e := by
  obtain ⟨rfl, -⟩ | ⟨rfl, -⟩ | ⟨l, hoffers, -⟩ | ⟨-, ⟨l, -, ht⟩ | ⟨e, -, ht⟩⟩ := exec_next h
  · exact hi.elim
  · exact hi.elim
  · exact absurd hi hoffers.not_isPxt
  · exact .inl ⟨l, ht⟩
  · exact .inr ⟨e, ht⟩

/-- A transcoder operation, successful or not, reaches TILE and the fields OK, TILE_VALID and ERR of STATUS only (R51, R142). -/
theorem exec_pxt_frame {i : Instr} {s t : State} (hi : IsPxt i) (h : exec i s = .next t) :
    ∃ tile ok tileValid err, t =
      { s with tile := tile, status := { s.status with ok := ok, tileValid := tileValid, err := err } } := by
  obtain ⟨l, rfl⟩ | ⟨e, rfl⟩ := exec_pxt_next hi h
  · exact ⟨_, _, _, _, loadTile_eq l s⟩
  · exact ⟨_, _, _, _, failTile_eq e s⟩

/-- Settles O32: none of these fields is among those a transcoder operation reaches (`exec_pxt_frame`). -/
theorem transcoderLeavesTheChecksumState : Obligations.TranscoderLeavesTheChecksumState := by
  unfold Obligations.TranscoderLeavesTheChecksumState
  intro i s t hi h
  obtain ⟨_, _, _, _, rfl⟩ := exec_pxt_frame hi h
  exact ⟨rfl, rfl, rfl, rfl, rfl, rfl, rfl⟩

/-! ### The bytes a conversion reads -/

/-- The division of R57 is exact: 4,128 pixels make 516 bytes for each bit of a pixel. -/
theorem srcBytesOf_eq (f : Format) : srcBytesOf f = 516 * (channelsOf f * depthOf f) := by
  rw [srcBytesOf, Config.tilePixels]
  omega

/-- Settles O5: 516 bytes for each bit of the format's pixel. -/
theorem sourceByteCounts : Obligations.SourceByteCounts := by
  unfold Obligations.SourceByteCounts
  simp only [srcBytesOf_eq, channelsOf, depthOf]
  decide

end Sys2Proof.Machine
end

section
/-! PROOFS. The words of the host: the decoder against the encoder, what a word written to CMD starts, and two operations
whose effect the encoding chapter states (30_encoding R81 to R93). -/

namespace Sys2Proof

/-! ### Words that decode to no operation -/

theorem decodeCommand_error {w : Word} {e : DecodeError} (h : decodeCommand w = .error e) : e = .reservedCommand w := by
  unfold decodeCommand at h
  split at h
  case h_7 =>
    cases h
    rfl
  all_goals cases h

/-- A command word other than the six of R81 is reserved (R88). -/
theorem decodeCommand_reserved {w : Word} (h : w ∉ ([0x01, 0x02, 0x03, 0x04, 0x10, 0x11] : List Word)) :
    decodeCommand w = .error (.reservedCommand w) := by
  cases hw : decodeCommand w with
  | ok i =>
    obtain ⟨rfl, -⟩ | ⟨rfl, -⟩ | ⟨rfl, -⟩ | ⟨rfl, -⟩ | ⟨rfl, -⟩ | ⟨rfl, -⟩ := decodeCommand_ok hw
    all_goals exact absurd (by decide) h
  | error e => rw [decodeCommand_error hw]

/-- A word written to CMD that is no command word is refused by its name, whatever IMG_FMT holds (R87, R88). -/
theorem decodeIssue_error {w : Word} {e : DecodeError} (h : decodeCommand w = .error e) (fmt : Option Word) :
    decodeIssue w fmt = .error e := by
  simp only [decodeIssue, h]

theorem decodeFormat_reservedBits {w : Word} (h : formatReserved w ≠ 0) :
    decodeFormat w = .error (.reservedFormatBits w) :=
  if_pos h

/-- With its reserved bits 0, a word that is none of the twelve selects no format (R90). -/
theorem formatOf_eq_none {w : Word} (hr : formatReserved w = 0) (h : ∀ f : Format, w ≠ f.word) : formatOf w = none :=
  Option.eq_none_iff_forall_ne_some.mpr fun f hf => h f (eq_word_of_formatOf hr hf)

theorem decodeFormat_unsupported {w : Word} (hr : formatReserved w = 0) (h : ∀ f : Format, w ≠ f.word) :
    decodeFormat w = .error (.unsupportedFormat w) := by
  simp only [decodeFormat, formatOf_eq_none hr h, hr, ne_eq, not_true_eq_false, if_false]

/-! ### The round trips -/

/-- A format's row stands in IMG_FMT, with the format's word (R85). -/
theorem encode_format (f : Format) : encode f.instr = { port := .imageFormat, word := f.word } := by cases f <;> rfl

/-- Settles O1, by the table: the seven rows outside IMG_FMT each by evaluation, the twelve formats by `decodeFormat_word`. -/
theorem decodeOfEncodeIsTheInstruction : Obligations.DecodeOfEncodeIsTheInstruction := by
  unfold Obligations.DecodeOfEncodeIsTheInstruction
  intro i _
  cases i
  case blkReset | csaWrite | csaWrtile | csaEmit | pxtLoadraw | pxtConvert | csaRead => rfl
  all_goals exact decodeFormat_word _

/-- Settles O2, by the place a word stands in: each place's inversion lemma names the row and its word. -/
theorem decodedWordIsItsEncoding : Obligations.DecodedWordIsItsEncoding := by
  unfold Obligations.DecodedWordIsItsEncoding
  rintro ⟨port, w⟩ i h
  cases port with
  | command =>
    obtain ⟨rfl, rfl⟩ | ⟨rfl, rfl⟩ | ⟨rfl, rfl⟩ | ⟨rfl, rfl⟩ | ⟨rfl, rfl⟩ | ⟨rfl, rfl⟩ := decodeCommand_ok h
    all_goals rfl
  | imageFormat =>
    obtain ⟨hr, f, hf, rfl⟩ := decodeFormat_ok h
    obtain rfl : w = f.word := eq_word_of_formatOf hr hf
    exact encode_format f
  | readSelect =>
    obtain ⟨rfl, rfl⟩ := decodeRead_ok h
    rfl

/-- Settles O3: the words of a row by evaluation or `decodeFormat_word`, the other three by the lemma of their error. -/
theorem writtenOutWordsDecode : Obligations.WrittenOutWordsDecode := by
  unfold Obligations.WrittenOutWordsDecode
  have hcommand := decodeCommand_reserved (w := 0x00000102) (by decide)
  have hunknown := decodeFormat_unsupported (w := 0x00000210) (by decide) fun f => by cases f <;> decide
  have hreserved := decodeFormat_reservedBits (w := 0x00010008) (by decide)
  exact ⟨rfl, rfl, rfl, hcommand, rfl, decodeFormat_word .rgba16, decodeFormat_word .ga4, hunknown, hreserved⟩

end Sys2Proof

namespace Sys2Proof.Machine

/-! ### A word written to CMD, a read of register 2 -/

/-- A host write of register 0 issues an operation (R24, R80). -/
theorem runAccess_command (w : Word) (s : State) : runAccess (.write 0 w) s = issue w s := rfl

theorem issue_ok {w : Word} {s : State} {i : Instr} (h : decodeIssue w s.writtenFormat = .ok i) : issue w s = exec i s := by
  simp only [issue, h]

theorem issue_error {w : Word} {s : State} {e : DecodeError} (h : decodeIssue w s.writtenFormat = .error e) :
    issue w s = .refused (.notDecoded e) := by
  simp only [issue, h]

/-- A host read of register 2 is the operation CSA.READ (R92, R117). -/
theorem runAccess_csumRead (s : State) : runAccess (.read 2) s = exec .csaRead s := rfl

/-- Settles O4: the word is no command word, so it decodes to nothing whatever IMG_FMT holds. -/
theorem reservedCommandWordIsRefused : Obligations.ReservedCommandWordIsRefused := by
  unfold Obligations.ReservedCommandWordIsRefused
  intro s w rest hpending hw
  rw [step_of_pending hpending, runAccess_command, issue_error (decodeIssue_error (decodeCommand_reserved hw) _)]

/-- Settles O6: taking the access off the list leaves IMG_FMT, so the word decodes as it did before. -/
theorem stepRunsTheDecodedOperation : Obligations.StepRunsTheDecodedOperation := by
  unfold Obligations.StepRunsTheDecodedOperation
  constructor
  · intro s w i rest hpending hdecode _
    have hissue : decodeIssue w (State.writtenFormat { s with pending := rest }) = .ok i := hdecode
    rw [step_of_pending hpending, runAccess_command, issue_ok hissue]
  · intro s rest hpending
    rw [step_of_pending hpending, runAccess_csumRead]

/-! ### CSA.EMIT -/

/-- The whole next state of a tracked write whose bytes the sink accepts (R105, R106). -/
theorem State.trackedWrite_accepted {s : State} {l : List Byte} (hfail : s.status.fail = false) (hl : l ≠ [])
    (haccept : s.sinkAnswer l.length = l.length) :
    s.trackedWrite l =
      { s with
        crc := crcUpdate s.cfg.polyR s.crc l
        wrDone := BitVec.ofNat 32 l.length
        out := s.out ++ l
        status := { s.status with ok := true, err := .noError }
        sinkAnswers := s.sinkAnswers.tail
        draws := s.draws + 1 } := by
  obtain ⟨hf, -⟩ | ⟨-, hnil, -⟩ | ⟨-, -, hshort, -⟩ | ⟨-, -, -, ht⟩ := s.trackedWrite_cases l
  · simp [hf] at hfail
  · exact absurd hnil hl
  · omega
  · exact ht

/-- The four bytes of a word, least significant first, make up the word (R12). -/
theorem le32_sum (v : Word) :
    (v.extractLsb' 0 8).toNat + 256 * (v.extractLsb' 8 8).toNat + 65536 * (v.extractLsb' 16 8).toNat +
      16777216 * (v.extractLsb' 24 8).toNat = v.toNat := by
  have := v.isLt
  simp only [BitVec.extractLsb'_toNat, Nat.shiftRight_eq_div_pow]
  omega

/-- Settles O20: CSA.EMIT is the accepted tracked write of the four bytes it offers. -/
theorem emitAppendsTheChecksum : Obligations.EmitAppendsTheChecksum := by
  unfold Obligations.EmitAppendsTheChecksum
  intro s hfail haccept
  have hexec : exec .csaEmit s = .next (s.trackedWrite (le32 (s.crc ^^^ s.cfg.xorOut))) := exec_of_offers rfl
  have hwrite := State.trackedWrite_accepted (l := le32 (s.crc ^^^ s.cfg.xorOut)) hfail (List.cons_ne_nil _ _) haccept
  refine ⟨_, _, _, _, le32_sum (s.crc ^^^ s.cfg.xorOut), ?_⟩
  rw [hexec, hwrite]
  rfl

/-! ### PXT.CONVERT with no format -/

/-- PXT.CONVERT with its operand registers written and the reserved bits 0 runs its body (R138). -/
theorem exec_pxtConvert_body {s : State} (hsrc : s.srcAddr.written = true) (hw : s.imgW.written = true)
    (hh : s.imgH.written = true) (hfmt : s.imgFmt.written = true) (hr : formatReserved s.imgFmt.value = 0) :
    exec .pxtConvert s = convertImage (formatOf s.imgFmt.value) s := by
  have hwritten := s.firstUnwritten_convert.mpr ⟨hsrc, hw, hh, hfmt⟩
  simp only [exec, execPxtConvert, hwritten, if_pos hr]

/-- The body of PXT.CONVERT with the right dimensions and no format raises UnsupportedFormat (R90, R182). -/
theorem convertImage_none {s : State} (hdim : Is86By48 s) :
    convertImage none s = .next (convertFailed s .unsupportedFormat) := by
  obtain ⟨g, hg, -⟩ | ⟨-, -, hc⟩ | ⟨-, hwrong, -⟩ | ⟨g, hg, -⟩ := convertImage_cases none s
  · cases hg
  · exact hc
  · exact absurd hdim hwrong
  · cases hg

/-- Settles O45: such a word selects no format, and the dimensions fit. -/
theorem unknownFormatsRaiseUnsupportedFormat : Obligations.UnknownFormatsRaiseUnsupportedFormat := by
  unfold Obligations.UnknownFormatsRaiseUnsupportedFormat
  intro s hsrc hw hh hfmt hdim hlow hunknown
  have hr := (formatReserved_eq_zero _).mpr hlow
  rw [exec_pxtConvert_body hsrc hw hh hfmt hr, formatOf_eq_none hr hunknown, convertImage_none hdim]

end Sys2Proof.Machine
end

section
/-! PROOFS. CRC arithmetic: the eight rounds of a byte, and the four bytes of a word taken at once (40_checksum_accumulator
R101, R115). -/

namespace Sys2Proof.Machine

/-! ### Rounds -/

theorem crcRounds_eq_iterate (poly : Word) (n : Nat) (r : Word) : crcRounds poly n r = (crcRound poly)^[n] r := by
  induction n generalizing r with
  | zero => rfl
  | succ n ih => exact ih (crcRound poly r)

theorem crcRounds_add (poly : Word) (m n : Nat) (r : Word) :
    crcRounds poly (m + n) r = crcRounds poly m (crcRounds poly n r) := by
  simp only [crcRounds_eq_iterate, Function.iterate_add_apply]

/-- The bit shifted out is the parity of the register. -/
theorem crcRound_eq_parity (poly x : Word) :
    crcRound poly x = if x.toNat % 2 = 1 then (x >>> 1) ^^^ poly else x >>> 1 := by
  simp only [crcRound, BitVec.getLsbD, Nat.testBit_zero, decide_eq_true_eq]

/-- Settles O12: `crcRounds` is the iterate of one round; the spot values by evaluation. -/
theorem crcStepIsTheBitSerialStep : Obligations.CrcStepIsTheBitSerialStep := by
  unfold Obligations.CrcStepIsTheBitSerialStep
  refine ⟨fun poly r b => ?_, by decide, by decide, by decide, by decide, by decide⟩
  rw [crcStep, crcRounds_eq_iterate, BitVec.ofNat_toNat]
  simp only [funext (crcRound_eq_parity poly)]

/-! ### Linearity -/

theorem crcRound_xor (poly a b : Word) : crcRound poly (a ^^^ b) = crcRound poly a ^^^ crcRound poly b := by
  simp only [crcRound, BitVec.getLsbD_xor, BitVec.ushiftRight_xor_distrib]
  cases a.getLsbD 0 <;> cases b.getLsbD 0
  · rfl
  · simp [BitVec.xor_assoc]
  · simp only [Bool.xor_false, if_true, Bool.false_eq_true, if_false]
    rw [BitVec.xor_assoc, BitVec.xor_comm _ poly, ← BitVec.xor_assoc]
  · simp only [Bool.xor_true, Bool.not_true, Bool.false_eq_true, if_true, if_false]
    rw [BitVec.xor_assoc, BitVec.xor_comm poly, BitVec.xor_assoc, BitVec.xor_self, BitVec.xor_zero]

theorem crcRounds_xor (poly : Word) (n : Nat) (a b : Word) :
    crcRounds poly n (a ^^^ b) = crcRounds poly n a ^^^ crcRounds poly n b := by
  induction n generalizing a b with
  | zero => rfl
  | succ n ih => simp only [crcRounds, crcRound_xor, ih]

@[simp] theorem crcRounds_zero (poly : Word) (n : Nat) : crcRounds poly n 0 = 0 := by
  induction n with
  | zero => rfl
  | succ n ih => exact ih

/-- While only zeros are shifted out the polynomial does not come in. -/
theorem crcRounds_of_low_zero {poly : Word} {n : Nat} {r : Word} (h : ∀ i, i < n → r.getLsbD i = false) :
    crcRounds poly n r = r >>> n := by
  induction n generalizing r with
  | zero => simp [crcRounds]
  | succ n ih =>
    have hround : crcRound poly r = r >>> 1 := by
      rw [crcRound, h 0 (Nat.succ_pos n), if_neg Bool.false_ne_true]
    have hlow : ∀ i, i < n → (r >>> 1).getLsbD i = false := by
      intro i hi
      rw [BitVec.getLsbD_ushiftRight]
      exact h (1 + i) (by omega)
    rw [crcRounds, hround, ih hlow, ← BitVec.shiftRight_add, Nat.add_comm]

/-! ### A word at once -/

/-- Eight rounds over a register that holds `r` with a word xored in: the word's low byte is a step, the rest of it only moves
down. -/
theorem crcRounds_eight_xor (poly r v : Word) :
    crcRounds poly 8 (r ^^^ v) = crcStep poly r (v.extractLsb' 0 8) ^^^ v >>> 8 := by
  have hhigh : crcRounds poly 8 (v ^^^ (v.extractLsb' 0 8).setWidth 32) = v >>> 8 := by
    rw [crcRounds_of_low_zero]
    · apply BitVec.eq_of_getLsbD_eq
      intro i hi
      simp
    · intro i hi
      simp [hi, show i < 32 by omega]
  have hsplit : r ^^^ v = (r ^^^ (v.extractLsb' 0 8).setWidth 32) ^^^ (v ^^^ (v.extractLsb' 0 8).setWidth 32) := by
    rw [BitVec.xor_comm v, BitVec.xor_assoc, ← BitVec.xor_assoc _ _ v, BitVec.xor_self, BitVec.zero_xor]
  rw [hsplit, crcRounds_xor, hhigh, crcStep]

/-- The four bytes of a word, least significant first, are taken as the whole word xored in and 32 rounds. -/
theorem crcUpdate_le32 (poly r v : Word) : crcUpdate poly r (le32 v) = crcRounds poly 32 (r ^^^ v) := by
  have byte : ∀ n r v, crcRounds poly (n + 8) (r ^^^ v) =
      crcRounds poly n (crcStep poly r (v.extractLsb' 0 8) ^^^ v >>> 8) := by
    intro n r v
    rw [crcRounds_add, crcRounds_eight_xor]
  have hout : v >>> 8 >>> 8 >>> 8 >>> 8 = 0#32 := by
    simp only [← BitVec.shiftRight_add]
    exact BitVec.ushiftRight_eq_zero (Nat.le_refl 32)
  rw [byte 24, byte 16, byte 8, byte 0, hout, BitVec.xor_zero]
  simp only [← BitVec.shiftRight_add]
  rfl

/-- The checksum value of a register, sent through it, cancels what was in it (R115). -/
theorem crcUpdate_own_checksum (poly r xorOut : Word) :
    crcUpdate poly r (le32 (r ^^^ xorOut)) = crcUpdate poly 0 (le32 xorOut) := by
  rw [crcUpdate_le32, crcUpdate_le32, ← BitVec.xor_assoc, BitVec.xor_self]
  rfl

/-- The residue at the reference parameters (R115). -/
theorem crcUpdate_residue : crcUpdate 0xEDB88320 0 (le32 0xFFFFFFFF) = 0xDEBB20E3 := by
  have h1 : crcStep 0xEDB88320 0x00000000 0xFF = 0x2D02EF8D := by decide
  have h2 : crcStep 0xEDB88320 0x2D02EF8D 0xFF = 0xBE2612FF := by decide
  have h3 : crcStep 0xEDB88320 0xBE2612FF 0xFF = 0x00BE2612 := by decide
  have h4 : crcStep 0xEDB88320 0x00BE2612 0xFF = 0xDEBB20E3 := by decide
  have hbytes : le32 0xFFFFFFFF = [0xFF, 0xFF, 0xFF, 0xFF] := by decide
  rw [hbytes, crcUpdate_cons, h1, crcUpdate_cons, h2, crcUpdate_cons, h3, crcUpdate_cons, h4, crcUpdate_nil]

end Sys2Proof.Machine
end

section
/-! PROOFS. The tracked write, end by end, and the operations of the Checksum Accumulator (40_checksum_accumulator R104 to
R118). -/

namespace Sys2Proof.Machine

/-! ### The ends of a tracked write -/

/-- The whole next state of a tracked write while FAIL = 1 (R108). -/
theorem State.trackedWrite_standingFailure {s : State} (hfail : s.status.fail = true) (l : List Byte) :
    s.trackedWrite l = { s with wrDone := 0, status := { s.status with ok := false, err := .ioWriteError } } :=
  if_pos hfail

/-- The whole next state of the empty tracked write (R109). -/
theorem State.trackedWrite_nil {s : State} (hfail : s.status.fail = false) :
    s.trackedWrite [] = { s with wrDone := 0, status := { s.status with ok := true, err := .noError } } := by
  simp [State.trackedWrite, hfail, State.account, State.succeed, Status.succeed]

/-- The whole next state of a tracked write of which the sink accepts too few bytes (R107). -/
theorem State.trackedWrite_short {s : State} {l : List Byte} (hfail : s.status.fail = false)
    (hshort : s.sinkAnswer l.length < l.length) :
    s.trackedWrite l =
      { s with
        crc := crcUpdate s.cfg.polyR s.crc (l.take (s.sinkAnswer l.length))
        wrDone := BitVec.ofNat 32 (s.sinkAnswer l.length)
        out := s.out ++ l.take (s.sinkAnswer l.length)
        status := { s.status with ok := false, fail := true, err := .ioWriteError }
        sinkAnswers := s.sinkAnswers.tail
        draws := s.draws + 1 } := by
  obtain ⟨hf, -⟩ | ⟨-, rfl, -⟩ | ⟨-, -, -, ht⟩ | ⟨-, -, hwhole, -⟩ := s.trackedWrite_cases l
  · simp [hf] at hfail
  · simp at hshort
  · exact ht
  · omega

/-- Settles O14: the operation is the accepted tracked write of the bytes it offers. -/
theorem acceptedTrackedWrite : Obligations.AcceptedTrackedWrite := by
  unfold Obligations.AcceptedTrackedWrite
  intro i s bytes hoffers hfail hne haccept
  rw [exec_of_offers hoffers, State.trackedWrite_accepted hfail hne haccept]

/-- Settles O15: the operation is the short tracked write of the bytes it offers, and `crc_update` over OUT goes on over the
accepted bytes (`crcUpdate_append`). -/
theorem shortTrackedWrite : Obligations.ShortTrackedWrite := by
  unfold Obligations.ShortTrackedWrite
  rintro i s bytes k hoffers hfail rfl hshort
  refine ⟨s.trackedWrite bytes, exec_of_offers hoffers, ?_⟩
  rw [State.trackedWrite_short hfail hshort]
  refine ⟨rfl, rfl, fun hcrc => ?_⟩
  dsimp only
  rw [crcUpdate_append, ← hcrc]

/-! ### BLK.RESET and the standing failure -/

@[simp] theorem Status.toWord_reset : Status.reset.toWord = 0x00000000 := by decide

theorem State.resetBlock_resetBlock (s : State) : s.resetBlock.resetBlock = s.resetBlock := rfl

/-- From a standing failure the only operation to FAIL = 0 is BLK.RESET (R104, R108). -/
theorem exec_clearsFail_iff {i : Instr} {s t : State} (h : exec i s = .next t) (hfail : s.status.fail = true) :
    t.status.fail = false ↔ i = .blkReset := by
  constructor
  · intro hclear
    by_contra hi
    have hstays : t.status.fail = true := (exec_continues h hi).failStays hfail
    simp [hstays] at hclear
  · rintro rfl
    cases h
    rfl

/-- Settles O10: each field is the one `State.resetBlock` is written with; `exec_clearsFail_iff` for FAIL. -/
theorem blkResetStartsANewInvocation : Obligations.BlkResetStartsANewInvocation := by
  unfold Obligations.BlkResetStartsANewInvocation
  constructor
  · intro s
    exact ⟨s.resetBlock, rfl, rfl, Status.toWord_reset, rfl, rfl, rfl, rfl, rfl, rfl, rfl, rfl, rfl, rfl, rfl, rfl, rfl,
      rfl, congrArg Host.Outcome.next s.resetBlock_resetBlock⟩
  · intro i s t h hfail hclear
    exact (exec_clearsFail_iff h hfail).mp hclear

/-- CSA.READ returns the checksum value and changes nothing else (R117). -/
theorem exec_csaRead_eq (s : State) : exec .csaRead s = .next { s with readData := s.crc ^^^ s.cfg.xorOut } := rfl

/-- Settles O35: the meaning of CSA.READ, and the checksum value 0 of the reset state (`resetStateHasTheStatedValues`). -/
theorem csumReadReturnsTheChecksum : Obligations.CsumReadReturnsTheChecksum := by
  unfold Obligations.CsumReadReturnsTheChecksum
  obtain ⟨-, hzero, -⟩ := resetStateHasTheStatedValues
  refine ⟨exec_csaRead_eq, ?_⟩
  rw [exec_csaRead_eq, hzero]

/-- Settles O16: the standing-failure end of the tracked write, `exec_clearsFail_iff`, and CSA.READ with CRC the running value
over OUT. -/
theorem standingFailureEndsTrackedWrites : Obligations.StandingFailureEndsTrackedWrites := by
  unfold Obligations.StandingFailureEndsTrackedWrites
  refine ⟨?_, ?_, ?_⟩
  · intro i s bytes hoffers hfail
    rw [exec_of_offers hoffers, State.trackedWrite_standingFailure hfail]
  · intro i s t hfail h
    exact exec_clearsFail_iff h hfail
  · intro s hinv _
    rw [exec_csaRead_eq, hinv.crcTracksOut]
    rfl

/-! ### CSA.WRITE and CSA.WRTILE -/

/-- Settles O17: CSA.WRITE offers no byte, and the empty tracked write does not call the sink. -/
theorem emptyWriteSucceeds : Obligations.EmptyWriteSucceeds := by
  unfold Obligations.EmptyWriteSucceeds
  intro s haddr hlen hfail
  have hfits : s.wrAddr.value.toNat + s.wrLen.value.toNat ≤ 4294967296 := by
    rw [hlen]
    exact Nat.le_of_lt s.wrAddr.value.isLt
  have hoffers : Offers .csaWrite s [] := ⟨haddr, by rw [hlen], hfits, by rw [hlen]; rfl⟩
  rw [exec_of_offers hoffers, State.trackedWrite_nil hfail]

/-- Settles O19: TILE_VALID alone decides. -/
theorem wrtileNeedsAValidTile : Obligations.WrtileNeedsAValidTile := by
  unfold Obligations.WrtileNeedsAValidTile
  intro s
  refine ⟨fun hinvalid => ?_, fun hvalid => ⟨_, exec_of_offers (i := .csaWrtile) ⟨hvalid, rfl⟩⟩⟩
  simp only [exec, execCsaWrtile, hinvalid, Bool.false_eq_true, if_false]

/-- Two memories that agree on a range of each read the same there. -/
theorem Memory.readBytes_congr {m m' : Memory} {a a' n : Nat} (h : ∀ i, i < n → m.read (a + i) = m'.read (a' + i)) :
    m.readBytes a n = m'.readBytes a' n :=
  List.map_congr_left fun i hi => h i (List.mem_range.mp hi)

/-- Settles O25: both operations are the tracked write of what they offer, and they offer the same bytes. -/
theorem wrtileEqualsWriteOfTheSameBytes : Obligations.WrtileEqualsWriteOfTheSameBytes := by
  unfold Obligations.WrtileEqualsWriteOfTheSameBytes
  intro s hvalid haddr hlen hfits hsame
  have hbytes : s.tile.readBytes 0 8256 = s.host.readBytes s.wrAddr.value.toNat 8256 :=
    Memory.readBytes_congr fun i hi => by rw [Nat.zero_add, hsame i hi]
  have hwrtile : Offers .csaWrtile s (s.tile.readBytes 0 8256) := ⟨hvalid, rfl⟩
  have hwrite : Offers .csaWrite s (s.tile.readBytes 0 8256) :=
    ⟨haddr, by rw [hlen], by rw [hlen]; exact hfits, by rw [hlen]; exact hbytes⟩
  exact ⟨⟨_, exec_of_offers hwrtile⟩, (exec_of_offers hwrtile).trans (exec_of_offers hwrite).symm⟩

/-! ### The sink -/

theorem State.sinkAnswer_given (s : State) (k n : Nat) :
    State.sinkAnswer { s with sinkAnswers := [k] } n = min k n := rfl

/-- Settles O24: the answer is cut to n, and an answer up to n is returned as given. -/
theorem sinkAcceptsAnyPrefix : Obligations.SinkAcceptsAnyPrefix := by
  unfold Obligations.SinkAcceptsAnyPrefix
  intro s n
  refine ⟨s.sinkAnswer_le n, fun k hk => ⟨[k], ?_⟩⟩
  rw [State.sinkAnswer_given, Nat.min_eq_left hk]

/-! ### Successful tracked writes -/

/-- From `s` to `t` all of `l` has been sent and accounted for, and STATUS reports success (R105, R109). -/
structure State.Sent (s t : State) (l : List Byte) : Prop where
  crc : t.crc = crcUpdate s.cfg.polyR s.crc l
  out : t.out = s.out ++ l
  wrDone : t.wrDone.toNat = l.length
  status : t.status = s.status.succeed
  tile : t.tile = s.tile
  cfg : t.cfg = s.cfg

/-- A tracked write that reports success has sent every byte it was given. -/
theorem State.trackedWrite_sent {s : State} {l : List Byte} (hlen : l.length < 4294967296)
    (hok : (s.trackedWrite l).status.ok = true) : s.Sent (s.trackedWrite l) l := by
  obtain ⟨-, ht⟩ | ⟨-, rfl, ht⟩ | ⟨-, -, -, ht⟩ | ⟨-, -, -, ht⟩ := s.trackedWrite_cases l
  · simp [ht] at hok
  · rw [ht]
    exact ⟨rfl, (List.append_nil _).symm, rfl, rfl, rfl, rfl⟩
  · simp [ht] at hok
  · rw [ht]
    exact ⟨rfl, rfl, by simpa using hlen, rfl, rfl, rfl⟩

/-- The same for CSA.WRITE, CSA.WRTILE and CSA.EMIT. -/
theorem sent_of_offers {i : Instr} {s t : State} {l : List Byte} (hoffers : Offers i s l) (h : exec i s = .next t)
    (hok : t.status.ok = true) : s.Sent t l := by
  rw [exec_of_offers hoffers] at h
  cases h
  exact State.trackedWrite_sent (offers_length hoffers) hok

/-- A successful CSA.EMIT has sent the checksum value of the state before it (R113). -/
theorem sent_of_csaEmit {s t : State} (h : exec .csaEmit s = .next t) (hok : t.status.ok = true) :
    s.Sent t (le32 (s.crc ^^^ s.cfg.xorOut)) :=
  sent_of_offers (i := .csaEmit) rfl h hok

/-- Settles O21: the two chunks and the one write each send what they offer (`State.Sent`), and `crc_update` and OUT go on from
chunk to chunk. -/
theorem writingInChunksIsTheSame : Obligations.WritingInChunksIsTheSame := by
  unfold Obligations.WritingInChunksIsTheSame
  intro s₁ t₁ s₂ t₂ s t b c hoffers₁ h₁ hok₁ hcrc₂ hout₂ hstatus₂ htile₂ hcfg₂ hoffers₂ h₂ hok₂ hcrc hout hstatus htile hcfg
    hoffers h hok
  have first := sent_of_offers hoffers₁ h₁ hok₁
  have second := sent_of_offers hoffers₂ h₂ hok₂
  have whole := sent_of_offers hoffers h hok
  refine ⟨?_, ?_, ?_, ?_, second.wrDone, ?_⟩
  · rw [second.crc, hcrc₂, hcfg₂, first.cfg, first.crc, whole.crc, hcrc, hcfg, crcUpdate_append]
  · rw [second.out, hout₂, first.out, whole.out, hout, List.append_assoc]
  · rw [second.status, hstatus₂, first.status, whole.status, hstatus]
    rfl
  · rw [second.tile, htile₂, first.tile, whole.tile, htile]
  · rw [whole.wrDone, List.length_append]

/-! ### CSA.EMIT -/

/-- Settles O22: the register takes in its own checksum value, which cancels what was there (`crcUpdate_own_checksum`). -/
theorem residueAfterEmit : Obligations.ResidueAfterEmit := by
  unfold Obligations.ResidueAfterEmit
  intro s t h hok
  have sent := sent_of_csaEmit h hok
  have hresidue : t.crc = crcUpdate s.cfg.polyR 0x00000000 (le32 s.cfg.xorOut) := by
    rw [sent.crc, crcUpdate_own_checksum]
  refine ⟨hresidue, ?_, ?_⟩
  · intro hpoly hxor
    have hcrc : t.crc = 0xDEBB20E3 := by rw [hresidue, hpoly, hxor, crcUpdate_residue]
    refine ⟨hcrc, ?_⟩
    rw [hcrc, sent.cfg, hxor]
    decide
  · intro hxor
    rw [hresidue, hxor, crcUpdate_le32]
    exact crcRounds_zero _ 32

/-- Settles O23: the bytes sent are the serialised CRC xor XOROUT of the state before, whose CRC is the running value over
what was in OUT then. -/
theorem storedChecksumRoundTrip : Obligations.StoredChecksumRoundTrip := by
  unfold Obligations.StoredChecksumRoundTrip
  intro s t hinv h hok
  have sent := sent_of_csaEmit h hok
  have hlen : t.out.length = s.out.length + 4 := by
    rw [sent.out, List.length_append]
    rfl
  have hcrc : crcUpdate s.cfg.polyR 0xFFFFFFFF s.out = s.crc := hinv.crcTracksOut.symm
  rw [hlen, Nat.add_sub_cancel, sent.out, List.take_left, List.drop_left, sent.cfg, hcrc]
  exact ⟨Nat.le_add_left 4 _, rfl⟩

end Sys2Proof.Machine
end

section
/-! PROOFS. The invariant of the machine, kept by every update and so by every step (10_state R25, R35, R36, R39; 60_exceptions
R180). -/

namespace Sys2Proof.Machine

/-! ### The updates -/

/-- The invariant speaks of these seven fields only. -/
theorem State.Inv.of_eq {s t : State} (h : s.Inv) (hcrc : t.crc = s.crc) (hstatus : t.status = s.status)
    (hdone : t.wrDone = s.wrDone) (htile : t.tile = s.tile) (hhost : t.host = s.host) (hout : t.out = s.out)
    (hcfg : t.cfg = s.cfg) : t.Inv where
  crcTracksOut := by rw [hcrc, hcfg, hout, h.crcTracksOut]
  hostWf := by rw [hhost, h.hostWf]
  tileWf := by rw [htile, h.tileWf]
  doneInOut := by
    rw [hdone, hout]
    exact h.doneInOut
  okNoError := by
    rw [hstatus]
    exact h.okNoError
  ioErrorFails := by
    rw [hstatus]
    exact h.ioErrorFails

theorem State.Inv.hostWrite {s : State} (h : s.Inv) (r : Reg) (v : Word) : (s.hostWrite r v).Inv :=
  h.of_eq (s.hostWrite_crc r v) (s.hostWrite_status r v) (s.hostWrite_wrDone r v) (s.hostWrite_tile r v)
    (s.hostWrite_host r v) (s.hostWrite_out r v) (s.hostWrite_cfg r v)

theorem State.Inv.resetBlock {s : State} (h : s.Inv) : s.resetBlock.Inv where
  crcTracksOut := rfl
  hostWf := h.hostWf
  tileWf := rfl
  doneInOut := Nat.le_refl 0
  okNoError := fun _ => rfl
  ioErrorFails := nofun

theorem State.Inv.hostStore {s : State} (h : s.Inv) (a : Word) (b : Byte) : (s.hostStore a b).Inv where
  crcTracksOut := h.crcTracksOut
  hostWf := Memory.wfIn_write h.hostWf (Nat.zero_le _) a.isLt
  tileWf := h.tileWf
  doneInOut := h.doneInOut
  okNoError := h.okNoError
  ioErrorFails := h.ioErrorFails

theorem State.Inv.loadTile {s : State} (h : s.Inv) {l : List Byte} (hl : l.length = 8256) : (s.loadTile l).Inv where
  crcTracksOut := h.crcTracksOut
  hostWf := h.hostWf
  tileWf := Memory.wfIn_ofBytes Config.tileBytes 0 l (by rw [hl, Config.tileBytes])
  doneInOut := h.doneInOut
  okNoError := fun _ => rfl
  ioErrorFails := nofun

theorem State.Inv.failTile {s : State} (h : s.Inv) {e : ErrCode} (he : e ≠ .ioWriteError) : (s.failTile e).Inv where
  crcTracksOut := h.crcTracksOut
  hostWf := h.hostWf
  tileWf := h.tileWf
  doneInOut := h.doneInOut
  okNoError := nofun
  ioErrorFails := fun hio => absurd hio he

/-! ### The tracked write -/

/-- Whatever its end, a tracked write advances CRC over exactly the bytes that reach OUT, and WR_DONE counts them (R105,
R107). -/
theorem State.trackedWrite_accounts (l : List Byte) (s : State) :
    ∃ k, (s.trackedWrite l).crc = crcUpdate s.cfg.polyR s.crc (l.take k) ∧
      (s.trackedWrite l).out = s.out ++ l.take k ∧ (s.trackedWrite l).wrDone = BitVec.ofNat 32 (l.take k).length := by
  obtain ⟨-, ht⟩ | ⟨-, -, ht⟩ | ⟨-, -, hshort, ht⟩ | ⟨-, -, -, ht⟩ := s.trackedWrite_cases l
  · exact ⟨0, by simp [ht]⟩
  · exact ⟨0, by simp [ht]⟩
  · exact ⟨s.sinkAnswer l.length, by simp [ht, Nat.min_eq_left (Nat.le_of_lt hshort)]⟩
  · exact ⟨l.length, by simp [ht]⟩

/-- A tracked write ends in IoWriteError only with FAIL = 1 (R107, R108, R180). -/
theorem State.trackedWrite_ioErrorFails (l : List Byte) (s : State) (hio : (s.trackedWrite l).status.err = .ioWriteError) :
    (s.trackedWrite l).status.fail = true := by
  obtain ⟨hfail, ht⟩ | ⟨-, -, ht⟩ | ⟨-, -, -, ht⟩ | ⟨-, -, -, ht⟩ := s.trackedWrite_cases l
  · simp [ht, hfail]
  · simp [ht] at hio
  · simp [ht]
  · simp [ht] at hio

/-- A STATUS that reports an outcome has OK = 1 only with ERR = 0. -/
theorem Status.ReportsOutcome.okNoError {st : Status} (h : st.ReportsOutcome) (hok : st.ok = true) : st.err = .noError := by
  obtain ⟨-, herr⟩ | ⟨hfalse, -⟩ := h
  · exact herr
  · simp [hfalse] at hok

theorem State.Inv.trackedWrite {s : State} (h : s.Inv) (l : List Byte) : (s.trackedWrite l).Inv := by
  obtain ⟨k, hcrc, hout, hdone⟩ := s.trackedWrite_accounts l
  exact {
    crcTracksOut := by rw [hcrc, hout, s.trackedWrite_cfg, crcUpdate_append, ← h.crcTracksOut]
    hostWf := by rw [s.trackedWrite_host, h.hostWf]
    tileWf := by rw [s.trackedWrite_tile, h.tileWf]
    doneInOut := by
      rw [hdone, hout, List.length_append, BitVec.toNat_ofNat]
      exact Nat.le_trans (Nat.mod_le _ _) (Nat.le_add_left _ _)
    okNoError := (s.trackedWrite_reportsOutcome l).okNoError
    ioErrorFails := s.trackedWrite_ioErrorFails l }

/-! ### Operations and steps -/

/-- Every operation keeps the invariant: it resets, reads, writes to the sink, loads the tile, or raises one of the two errors of
PXT.CONVERT. -/
theorem State.Inv.exec {i : Instr} {s t : State} (h : s.Inv) (hexec : exec i s = .next t) : t.Inv := by
  obtain ⟨-, rfl⟩ | ⟨-, rfl⟩ | ⟨l, -, rfl⟩ | ⟨-, ⟨l, hl, rfl⟩ | ⟨e, he, rfl⟩⟩ := exec_next hexec
  · exact h.resetBlock
  · exact h.of_eq rfl rfl rfl rfl rfl rfl rfl
  · exact h.trackedWrite l
  · exact h.loadTile hl
  · exact h.failTile (by rintro rfl; simp at he)

/-- Settles O26, from the list of everything a step can do (`step_next`): taking an access off the list, a register write and a
read reach no field of the invariant; operations, reset and the host's store keep it. -/
theorem everyStepKeepsTheInvariant : Obligations.EveryStepKeepsTheInvariant := by
  unfold Obligations.EveryStepKeepsTheInvariant
  intro s t h hstep
  obtain ⟨-, rfl⟩ | ⟨a, rest, -, haccess⟩ := step_next hstep
  · exact h
  have hu : State.Inv { s with pending := rest } := h.of_eq rfl rfl rfl rfl rfl rfl rfl
  obtain ⟨i, hexec, -⟩ | ⟨-, rfl⟩ | ⟨n, v, r, -, -, rfl⟩ | ⟨v, rfl⟩ | ⟨v, rfl⟩ | ⟨addr, b, -, rfl⟩ := haccess
  · exact hu.exec hexec
  · exact hu.resetBlock
  · exact hu.hostWrite r v
  · exact hu.of_eq rfl rfl rfl rfl rfl rfl rfl
  · exact hu.of_eq rfl rfl rfl rfl rfl rfl rfl
  · exact hu.hostStore addr b

end Sys2Proof.Machine
end

section
/-! PROOFS. When the Pixel Transcoder's operations are refused, raise an error or load the tile (41_pixel_transcoder R137 to
R140, R188). -/

namespace Sys2Proof.Machine

/-! ### PXT.LOADRAW -/

/-- A tile loaded with bytes read from a memory reads back as those bytes. -/
theorem Memory.read_ofBytes_readBytes (m : Memory) (a : Nat) {n i : Nat} (hi : i < n) :
    (Memory.ofBytes 0 (m.readBytes a n)).read i = m.read (a + i) := by
  rw [Memory.read_ofBytes, if_pos (Nat.zero_le i), Nat.sub_zero, Memory.readBytes_getD m a n i hi]

/-- Settles O42: the three clauses are the branches of PXT.LOADRAW. -/
theorem loadrawCopiesTheBuffer : Obligations.LoadrawCopiesTheBuffer := by
  unfold Obligations.LoadrawCopiesTheBuffer
  intro s
  refine ⟨fun hsrc hfits => ⟨Memory.ofBytes 0 (s.host.readBytes s.srcAddr.value.toNat Config.tileBytes), ?_,
    wfTile_ofBytes (Memory.readBytes_length _ _ _), fun i hi => Memory.read_ofBytes_readBytes _ _ hi⟩,
    fun hsrc => ?_, fun hsrc hwraps => ?_⟩
  · have hwritten := s.firstUnwritten_source.mpr hsrc
    have hrange : rangeFits s.srcAddr.value Config.tileBytes = true := (rangeFits_iff _ _).mpr hfits
    simp only [exec, execPxtLoadraw, hwritten, if_pos hrange, loadTile_eq]
  · have hunwritten : s.firstUnwritten [.srcAddr] = some .srcAddr := by
      simp [State.firstUnwritten, State.operandReg, hsrc]
    simp only [exec, execPxtLoadraw, hunwritten]
  · have hwritten := s.firstUnwritten_source.mpr hsrc
    have hrange : ¬ rangeFits s.srcAddr.value Config.tileBytes = true := by
      rw [rangeFits_iff]
      exact Nat.not_le_of_lt hwraps
    simp only [exec, execPxtLoadraw, hwritten, if_neg hrange]

/-! ### The body of PXT.CONVERT: the range first, then the dimensions -/

/-- A source range that passes the top of the HOST space is refused, whatever the dimensions are (R33, U6, R188). -/
theorem convertImage_wraps {f : Format} {s : State} (hwraps : 4294967296 < s.srcAddr.value.toNat + srcBytesOf f) :
    convertImage (some f) s = .refused .operandRangeWraps := by
  obtain ⟨g, hg, hfits, -⟩ | ⟨hnone, -⟩ | ⟨hfits, -⟩ | ⟨-, -, -, hc⟩ := convertImage_cases (some f) s
  · cases hg
    exact absurd hfits (Nat.not_le_of_lt hwraps)
  · cases hnone
  · exact absurd (hfits f rfl) (Nat.not_le_of_lt hwraps)
  · exact hc

/-- Wrong dimensions raise InvalidDimensions, with a format in range or with none (R139, R188). -/
theorem convertImage_wrongDimensions {f : Option Format} {s : State} (hdim : ¬ Is86By48 s)
    (hfits : ∀ g, f = some g → s.srcAddr.value.toNat + srcBytesOf g ≤ 4294967296) :
    convertImage f s = .next (convertFailed s .invalidDimensions) := by
  obtain ⟨-, -, -, hright, -⟩ | ⟨-, hright, -⟩ | ⟨-, -, hc⟩ | ⟨g, hg, hwraps, -⟩ := convertImage_cases f s
  · exact absurd hright hdim
  · exact absurd hright hdim
  · exact hc
  · exact absurd (hfits g hg) (Nat.not_le_of_lt hwraps)

/-! ### PXT.CONVERT and its format rows -/

/-- PXT.CONVERT is refused while one of its four operand registers is unwritten (R138, U7). -/
theorem exec_pxtConvert_unwritten {s : State}
    (h : s.srcAddr.written = false ∨ s.imgW.written = false ∨ s.imgH.written = false ∨ s.imgFmt.written = false) :
    ∃ r, exec .pxtConvert s = .refused (.operandNotWritten r) := by
  have hsome : s.firstUnwritten [.srcAddr, .imgW, .imgH, .imgFmt] ≠ none := by
    rw [Ne, State.firstUnwritten_convert]
    rintro ⟨hsrc, hw, hh, hfmt⟩
    simp [hsrc, hw, hh, hfmt] at h
  obtain ⟨r, hr⟩ := Option.ne_none_iff_exists'.mp hsome
  exact ⟨r, by simp only [exec, execPxtConvert, hr]⟩

/-- PXT.CONVERT is refused while a reserved bit of IMG_FMT is 1 (R89, U5). -/
theorem exec_pxtConvert_reservedBits {s : State} (hsrc : s.srcAddr.written = true) (hw : s.imgW.written = true)
    (hh : s.imgH.written = true) (hfmt : s.imgFmt.written = true) (hr : formatReserved s.imgFmt.value ≠ 0) :
    exec .pxtConvert s = .refused (.reservedFormatBits s.imgFmt.value) := by
  have hwritten := s.firstUnwritten_convert.mpr ⟨hsrc, hw, hh, hfmt⟩
  simp only [exec, execPxtConvert, hwritten, if_neg hr]

/-- A format row with its operand registers written runs the body of PXT.CONVERT in that format (R87, R138). -/
theorem exec_format_body {s : State} (f : Format) (hsrc : s.srcAddr.written = true) (hw : s.imgW.written = true)
    (hh : s.imgH.written = true) : exec f.instr s = convertImage (some f) s := by
  have hwritten := s.firstUnwritten_image.mpr ⟨hsrc, hw, hh⟩
  simp only [exec_format, convertAs, hwritten]

/-- Settles O43: unwritten registers, then reserved bits, then the range of the selected format. -/
theorem convertRefusals : Obligations.ConvertRefusals := by
  unfold Obligations.ConvertRefusals
  intro s
  refine ⟨exec_pxtConvert_unwritten, fun hsrc hw hh hfmt hreserved => ?_, fun f hsrc hw hh hfmt hword hwraps => ?_⟩
  · refine exec_pxtConvert_reservedBits hsrc hw hh hfmt ?_
    rw [Ne, formatReserved_eq_zero]
    exact Nat.not_lt_of_le hreserved
  · rw [exec_pxtConvert_body hsrc hw hh hfmt (by rw [hword, formatReserved_word]), hword, formatOf_word,
      convertImage_wraps hwraps]

/-- Settles O44: both are the body of PXT.CONVERT (`convertImage_wrongDimensions`); a format that IMG_FMT selects is one whose
word it holds. -/
theorem wrongDimensionsRaiseInvalidDimensions : Obligations.WrongDimensionsRaiseInvalidDimensions := by
  unfold Obligations.WrongDimensionsRaiseInvalidDimensions
  intro s hdim
  refine ⟨fun f hready => ?_, fun hsrc hw hh hfmt hlow hfits => ?_⟩
  · obtain ⟨hsrc, hw, hh, hrange⟩ := hready
    rw [exec_format_body f hsrc hw hh]
    refine convertImage_wrongDimensions hdim fun g hg => ?_
    cases hg
    exact hrange
  · have hr := (formatReserved_eq_zero _).mpr hlow
    rw [exec_pxtConvert_body hsrc hw hh hfmt hr]
    exact convertImage_wrongDimensions hdim fun g hg => hfits g (eq_word_of_formatOf hr hg)

/-! ### A conversion that succeeds -/

/-- A conversion whose operands are ready and whose dimensions are right loads a tile with the pixels of its format (R138,
R141). -/
theorem exec_format_loads {f : Format} {s : State} (hready : SourceReady s (srcBytesOf f)) (hdim : Is86By48 s) :
    ∃ t, exec f.instr s = .next (tileLoaded s t) ∧ t.wfTile = true ∧
      ∀ p, p < 4128 → tileWord t p = (pixelOf f s.cfg s.source p).toNat :=
  ⟨_, exec_format_ready hready hdim, wfTile_ofBytes (rasterBytes_length _),
    fun p hp => tileWord_raster (pixelOf f s.cfg s.source) p hp⟩

/-- What the pixels of the format give for the words of a tile holds of the tile that such a conversion loads. -/
theorem exec_format_words {f : Format} {s : State} {Q : Memory → Nat → Prop} (hready : SourceReady s (srcBytesOf f))
    (hdim : Is86By48 s) (hQ : ∀ t p, tileWord t p = (pixelOf f s.cfg s.source p).toNat → Q t p) :
    ∃ t, exec f.instr s = .next (tileLoaded s t) ∧ ∀ p, p < 4128 → Q t p := by
  obtain ⟨t, hexec, -, hwords⟩ := exec_format_loads hready hdim
  exact ⟨t, hexec, fun p hp => hQ t p (hwords p hp)⟩

@[simp] theorem tileLoaded_tile (s : State) (t : Memory) : (tileLoaded s t).tile = t := rfl

/-- The tile of a conversion that reported success is the raster of its format's pixels (R141). -/
theorem tile_of_exec_format {f : Format} {s t : State} (h : exec f.instr s = .next t) (hok : t.status.ok = true) :
    t.tile = Memory.ofBytes 0 (rasterBytes (pixelOf f s.cfg s.source)) := by
  obtain ⟨-, -, rfl⟩ := exec_format_ok h hok
  rw [tileLoaded_tile]

/-- Settles O46: the decoder's second level and the dispatch of PXT.CONVERT both find the format whose word IMG_FMT holds. -/
theorem convertRunsTheSelectedFormat : Obligations.ConvertRunsTheSelectedFormat := by
  unfold Obligations.ConvertRunsTheSelectedFormat
  intro s f hfmt
  have hsame : exec .pxtConvert s = exec f.instr s := by rw [exec_pxtConvert_format hfmt, exec_format]
  refine ⟨?_, hsame, fun hready hdim => ?_⟩
  · have hcommand : decodeCommand 0x00000011 = .ok .pxtConvert := rfl
    simp only [hfmt, decodeIssue, hcommand, decodeFormat_word]
  · rw [hsame]
    exact exec_format_loads hready hdim

end Sys2Proof.Machine
end

section
/-! PROOFS. The pixel words of the twelve formats in plain arithmetic (41_pixel_transcoder R131 to R135, R145 to R158). -/

namespace Sys2Proof.Machine

/-! ### Colour -/

/-- `pixel_RGB8` (R145). -/
theorem pixelRgb8_toNat (src : Nat → Byte) (p : Nat) :
    (pixelRgb8 src p).toNat = wordOfFields ((src (3 * p)).toNat / 8) (greenField 2 (src (3 * p + 1)).toNat)
      ((src (3 * p + 2)).toNat / 8) := by
  simp only [pixelRgb8, sample_byte, Nat.mul_comm p 3, Nat.add_zero]
  exact rgb8To565_toNat (src _).isLt (src _).isLt (src _).isLt

/-- `pixel_RGBA8` (R146). -/
theorem pixelRgba8_toNat (src : Nat → Byte) (p : Nat) :
    (pixelRgba8 src p).toNat =
      wordOfFields ((src (4 * p)).toNat * (src (4 * p + 3)).toNat / 255 / 8)
        (greenField 2 ((src (4 * p + 1)).toNat * (src (4 * p + 3)).toNat / 255))
        ((src (4 * p + 2)).toNat * (src (4 * p + 3)).toNat / 255 / 8) := by
  simp only [pixelRgba8, sample_byte, Nat.mul_comm p 4, Nat.add_zero]
  have hlt (i : Nat) : premul8 (src i).toNat (src (4 * p + 3)).toNat < 256 := premul8_lt (src _).isLt (src _).isLt
  exact rgb8To565_toNat (hlt _) (hlt _) (hlt _)

/-- The byte pair of a big-endian sample is below 2^16 (R58). -/
theorem bytePair_lt (x y : Byte) : 256 * x.toNat + y.toNat < 65536 := by
  have hx := x.isLt
  have hy := y.isLt
  omega

/-- `pixel_RGB16` (R147). -/
theorem pixelRgb16_toNat (src : Nat → Byte) (p : Nat) :
    (pixelRgb16 src p).toNat =
      wordOfFields ((256 * (src (6 * p)).toNat + (src (6 * p + 1)).toNat) / 2048)
        (greenField 10 (256 * (src (6 * p + 2)).toNat + (src (6 * p + 3)).toNat))
        ((256 * (src (6 * p + 4)).toNat + (src (6 * p + 5)).toNat) / 2048) := by
  have hindex (k : Nat) : 2 * (p * 3 + k) = 6 * p + 2 * k := by omega
  simp only [pixelRgb16, sample_half, hindex]
  exact rgb16To565_toNat (bytePair_lt _ _) (bytePair_lt _ _) (bytePair_lt _ _)

/-- `pixel_RGBA16` (R148). -/
theorem pixelRgba16_toNat (src : Nat → Byte) (p : Nat) :
    (pixelRgba16 src p).toNat =
      wordOfFields
        ((256 * (src (8 * p)).toNat + (src (8 * p + 1)).toNat) *
          (256 * (src (8 * p + 6)).toNat + (src (8 * p + 7)).toNat) / 65535 / 2048)
        (greenField 10 ((256 * (src (8 * p + 2)).toNat + (src (8 * p + 3)).toNat) *
          (256 * (src (8 * p + 6)).toNat + (src (8 * p + 7)).toNat) / 65535))
        ((256 * (src (8 * p + 4)).toNat + (src (8 * p + 5)).toNat) *
          (256 * (src (8 * p + 6)).toNat + (src (8 * p + 7)).toNat) / 65535 / 2048) := by
  have hindex (k : Nat) : 2 * (p * 4 + k) = 8 * p + 2 * k := by omega
  simp only [pixelRgba16, sample_half, hindex]
  have hlt (x y z w : Byte) : premul16 (256 * x.toNat + y.toNat) (256 * z.toNat + w.toNat) < 65536 :=
    premul16_lt (bytePair_lt x y) (bytePair_lt z w)
  exact rgb16To565_toNat (hlt _ _ _ _) (hlt _ _ _ _) (hlt _ _ _ _)

/-! ### Samples below 8 bits -/

/-- A sample below 8 bits, from the byte it lies in and the number of bits to the right of it (R56). -/
theorem sample_at (src : Nat → Byte) {c d p k i j : Nat} (hd : d < 8) (hi : (p * (c * d) + k * d) / 8 = i)
    (hj : 8 - d - (p * (c * d) + k * d) % 8 = j) : sample src c d p k = (src i).toNat / 2 ^ j % 2 ^ d := by
  rw [sample_sub src c d p k hd, hi, hj]

/-- Places of 2-bit samples, as the rules count them. -/
theorem four_pow (n : Nat) : 4 ^ n = 2 ^ (2 * n) := Nat.pow_mul 2 2 n |>.symm

/-- The high nibble of a byte. -/
theorem byte_highNibble (b : Byte) : b.toNat / 2 ^ 4 % 2 ^ 4 = b.toNat / 16 := Nat.mod_eq_of_lt (Nat.div_lt_of_lt_mul b.isLt)

/-! ### Grey -/

/-- Packing cuts each field to its width (R14). -/
theorem pack565_fields (r g b : Nat) : (pack565 r g b).toNat = wordOfFields (r % 32) (g % 64) (b % 32) := by
  have hcut : pack565 r g b = pack565 (r % 32) (g % 64) (b % 32) := by
    simp only [pack565, show (0x1F : Nat) = 2 ^ 5 - 1 by rfl, show (0x3F : Nat) = 2 ^ 6 - 1 by rfl, and_low]
    norm_num
  rw [hcut, pack565_toNat (Nat.mod_lt _ (by decide)) (Nat.mod_lt _ (by decide)) (Nat.mod_lt _ (by decide))]

/-- `grey_expand` of any number, its fields cut to 5 and 6 bits (R135). -/
theorem greyExpand_toNat (v : Nat) :
    (greyExpand v).toNat = wordOfFields ((2 * v ||| v / 8) % 32) ((4 * v ||| v / 4) % 64) ((2 * v ||| v / 8) % 32) := by
  rw [greyExpand, pack565_fields, show (0x1F : Nat) = 2 ^ 5 - 1 by rfl, show (0x3F : Nat) = 2 ^ 6 - 1 by rfl, and_low, and_low,
    Nat.shiftLeft_eq, Nat.shiftLeft_eq, Nat.shiftRight_eq_div_pow, Nat.shiftRight_eq_div_pow]
  norm_num [Nat.mul_comm]

/-- `grey_expand` of 4 bits is replication: the high bits are added below the shifted sample (R135). -/
theorem greyExpand_toNat_of_lt {v : Nat} (hv : v < 16) :
    (greyExpand v).toNat = wordOfFields (2 * v + v / 8) (4 * v + v / 4) (2 * v + v / 8) := by
  have h5 : 2 * v ||| v / 8 = 2 * v + v / 8 := (Nat.two_pow_add_eq_or_of_lt (i := 1) (by omega) v).symm
  have h6 : 4 * v ||| v / 4 = 4 * v + v / 4 := (Nat.two_pow_add_eq_or_of_lt (i := 2) (by omega) v).symm
  rw [greyExpand_toNat, h5, h6, Nat.mod_eq_of_lt (by omega), Nat.mod_eq_of_lt (by omega)]

/-- A binary word as a number (R151). -/
theorem binaryWord_toNat (white : Bool) : (binaryWord white).toNat = if white then 0xFFFF else 0x0000 := by
  cases white <;> rfl

/-- `pixel_G1` (R151). -/
theorem pixelG1_toNat (src : Nat → Byte) (p : Nat) :
    (pixelG1 src p).toNat = if (src (p / 8)).toNat.testBit (7 - p % 8) then 0xFFFF else 0x0000 := by
  have hsample : sample src 1 1 p 0 = (src (p / 8)).toNat / 2 ^ (7 - p % 8) % 2 :=
    sample_at src (by decide) (by omega) (by omega)
  rw [pixelG1, binaryWord_toNat, hsample, Nat.testBit_eq_decide_div_mod_eq]

/-- A 2-bit sample picks the ramp's word of that number (R152). -/
theorem rampWord_toNat (ramp : Ramp) {v : Nat} (hv : v < 4) :
    some (rampWord ramp v).toNat = [ramp.black.toNat, ramp.dark.toNat, ramp.mid.toNat, ramp.whitish.toNat][v]? := by
  interval_cases v <;> rfl

/-- `pixel_G2` (R152). -/
theorem pixelG2_toNat (cfg : Params) (src : Nat → Byte) (p : Nat) :
    some (pixelG2 cfg src p).toNat =
      [cfg.ramp.black.toNat, cfg.ramp.dark.toNat, cfg.ramp.mid.toNat, cfg.ramp.whitish.toNat][
        (src (p / 4)).toNat / 4 ^ (3 - p % 4) % 4]? := by
  have hsample : sample src 1 2 p 0 = (src (p / 4)).toNat / 4 ^ (3 - p % 4) % 4 := by
    rw [four_pow]
    exact sample_at src (by decide) (by omega) (by omega)
  rw [pixelG2, rampWord_toNat _ (sample_lt src 1 2 p 0 (.inl (by decide))), hsample]

/-- The 4-bit sample of G4: the high nibble of a byte first (R153). -/
theorem sample_nibble (src : Nat → Byte) (p : Nat) :
    sample src 1 4 p 0 = if p % 2 = 0 then (src (p / 2)).toNat / 16 else (src (p / 2)).toNat % 16 := by
  split
  · rw [← byte_highNibble]
    exact sample_at src (by decide) (by omega) (by omega)
  · rw [← Nat.div_one (src (p / 2)).toNat]
    exact sample_at src (j := 0) (by decide) (by omega) (by omega)

/-- `pixel_G4` (R153). -/
theorem pixelG4_toNat (src : Nat → Byte) (p v : Nat)
    (hv : v = if p % 2 = 0 then (src (p / 2)).toNat / 16 else (src (p / 2)).toNat % 16) :
    (pixelG4 src p).toNat = wordOfFields (2 * v + v / 8) (4 * v + v / 4) (2 * v + v / 8) := by
  rw [← sample_nibble] at hv
  rw [pixelG4, ← hv, greyExpand_toNat_of_lt (hv ▸ sample_lt src 1 4 p 0 (.inl (by decide)))]

/-- `pixel_G8`, the quirk (R154). -/
theorem pixelG8_toNat (src : Nat → Byte) (p : Nat) :
    (pixelG8 src p).toNat =
      wordOfFields ((2 * (src p).toNat ||| (src p).toNat / 8) % 32) ((4 * (src p).toNat ||| (src p).toNat / 4) % 64)
        ((2 * (src p).toNat ||| (src p).toNat / 8) % 32) := by
  rw [pixelG8, sample_byte, show p * 1 + 0 = p by omega, greyExpand_toNat]

/-! ### Grey with alpha -/

/-- An entry of a configured table, as a binary word. -/
theorem binaryWord_getD {n i : Nat} (table : Vector Bool n) (hi : i < n) :
    some (binaryWord (table.toList.getD i false)).toNat = table[i]?.map fun white => if white then 0xFFFF else 0x0000 := by
  have hlist : i < table.toList.length := by simpa using hi
  rw [List.getD_eq_getElem _ _ hlist, Vector.getElem_toList, Vector.getElem?_eq_getElem hi, binaryWord_toNat]
  rfl

/-- `pixel_GA1` (R155). -/
theorem pixelGa1_toNat (cfg : Params) (src : Nat → Byte) (p : Nat) :
    some (pixelGa1 cfg src p).toNat =
      (cfg.gaLow1[2 * ((src (p / 4)).toNat / 2 ^ (7 - 2 * (p % 4)) % 2) +
        (src (p / 4)).toNat / 2 ^ (6 - 2 * (p % 4)) % 2]?).map fun white => if white then 0xFFFF else 0x0000 := by
  have hl : sample src 2 1 p 0 = (src (p / 4)).toNat / 2 ^ (7 - 2 * (p % 4)) % 2 :=
    sample_at src (by decide) (by omega) (by omega)
  have ha : sample src 2 1 p 1 = (src (p / 4)).toNat / 2 ^ (6 - 2 * (p % 4)) % 2 :=
    sample_at src (by decide) (by omega) (by omega)
  rw [pixelGa1, gaLowOne, hl, ha, Nat.mul_comm _ 2, binaryWord_getD _ (by omega)]

/-- `pixel_GA2` (R156). -/
theorem pixelGa2_toNat (cfg : Params) (src : Nat → Byte) (p : Nat) :
    some (pixelGa2 cfg src p).toNat =
      (cfg.gaLow2[4 * ((src (p / 2)).toNat / 4 ^ (3 - 2 * (p % 2)) % 4) +
        (src (p / 2)).toNat / 4 ^ (2 - 2 * (p % 2)) % 4]?).map fun white => if white then 0xFFFF else 0x0000 := by
  have hl : sample src 2 2 p 0 = (src (p / 2)).toNat / 4 ^ (3 - 2 * (p % 2)) % 4 := by
    rw [four_pow]
    exact sample_at src (by decide) (by omega) (by omega)
  have ha : sample src 2 2 p 1 = (src (p / 2)).toNat / 4 ^ (2 - 2 * (p % 2)) % 4 := by
    rw [four_pow]
    exact sample_at src (by decide) (by omega) (by omega)
  rw [pixelGa2, gaLowTwo, hl, ha, Nat.mul_comm _ 4, binaryWord_getD _ (by omega)]

/-- A grey value packed as three equal channels (R157, R158). -/
theorem greyTo565_toNat {y : Nat} (hy : y < 256) : (greyTo565 y).toNat = greyWord y := rgb8To565_toNat hy hy hy

/-- Replication of a nibble is multiplication by 17 (R157). -/
theorem widen4_eq {n : Nat} (hn : n < 16) : widen4 n = 17 * n := by
  have hor : 16 * n ||| n = 16 * n + n := (Nat.two_pow_add_eq_or_of_lt (i := 4) (by omega) n).symm
  rw [widen4, Nat.shiftLeft_eq, Nat.mul_comm n, show (2 ^ 4 : Nat) = 16 by rfl, hor]
  omega

/-- `pixel_GA4` (R157). -/
theorem pixelGa4_toNat (src : Nat → Byte) (p : Nat) :
    (pixelGa4 src p).toNat = greyWord (17 * ((src p).toNat / 16) * (17 * ((src p).toNat % 16)) / 255) := by
  have hbyte := (src p).isLt
  have hl : sample src 2 4 p 0 = (src p).toNat / 16 := by
    rw [← byte_highNibble]
    exact sample_at src (by decide) (by omega) (by omega)
  have ha : sample src 2 4 p 1 = (src p).toNat % 16 := by
    rw [← Nat.div_one (src p).toNat]
    exact sample_at src (j := 0) (by decide) (by omega) (by omega)
  rw [pixelGa4, hl, ha, widen4_eq (by omega), widen4_eq (by omega)]
  exact greyTo565_toNat (premul8_lt (by omega) (by omega))

/-- `pixel_GA8` (R158). -/
theorem pixelGa8_toNat (src : Nat → Byte) (p : Nat) :
    (pixelGa8 src p).toNat = greyWord ((src (2 * p)).toNat * (src (2 * p + 1)).toNat / 255) := by
  simp only [pixelGa8, sample_byte, Nat.mul_comm p 2, Nat.add_zero]
  exact greyTo565_toNat (premul8_lt (src _).isLt (src _).isLt)

/-! ### The loaded tiles -/

/-- Settles O47: the tile has the words of `pixelRgb8_toNat`. -/
theorem convertRgb8Words : Obligations.ConvertRgb8Words :=
  fun s hready hdim => exec_format_words (f := .rgb8) hready hdim fun _ p hword =>
    hword.trans (pixelRgb8_toNat s.source p)

/-- Settles O48: the tile has the words of `pixelRgba8_toNat`. -/
theorem convertRgba8Words : Obligations.ConvertRgba8Words :=
  fun s hready hdim => exec_format_words (f := .rgba8) hready hdim fun _ p hword =>
    hword.trans (pixelRgba8_toNat s.source p)

/-- Settles O49: the tile has the words of `pixelRgb16_toNat`. -/
theorem convertRgb16Words : Obligations.ConvertRgb16Words :=
  fun s hready hdim => exec_format_words (f := .rgb16) hready hdim fun _ p hword =>
    hword.trans (pixelRgb16_toNat s.source p)

/-- Settles O50: the tile has the words of `pixelRgba16_toNat`. -/
theorem convertRgba16Words : Obligations.ConvertRgba16Words :=
  fun s hready hdim => exec_format_words (f := .rgba16) hready hdim fun _ p hword =>
    hword.trans (pixelRgba16_toNat s.source p)

/-- Settles O51: the tile has the words of `pixelG1_toNat`. -/
theorem convertG1Words : Obligations.ConvertG1Words :=
  fun s hready hdim => exec_format_words (f := .g1) hready hdim fun _ p hword =>
    hword.trans (pixelG1_toNat s.source p)

/-- Settles O52: the tile has the words of `pixelG2_toNat`. -/
theorem convertG2Words : Obligations.ConvertG2Words :=
  fun s hready hdim => exec_format_words (f := .g2) hready hdim fun _ p hword =>
    (congrArg some hword).trans (pixelG2_toNat s.cfg s.source p)

/-- Settles O53: the tile has the words of `pixelG4_toNat`. -/
theorem convertG4Words : Obligations.ConvertG4Words :=
  fun s hready hdim => exec_format_words (f := .g4) hready hdim fun _ p hword v hv =>
    hword.trans (pixelG4_toNat s.source p v hv)

/-- Settles O54: the tile has the words of `pixelG8_toNat`. -/
theorem convertG8Words : Obligations.ConvertG8Words :=
  fun s hready hdim => exec_format_words (f := .g8) hready hdim fun _ p hword _ hv =>
    hv ▸ hword.trans (pixelG8_toNat s.source p)

/-- Settles O55: the tile has the words of `pixelGa1_toNat`. -/
theorem convertGa1Words : Obligations.ConvertGa1Words :=
  fun s hready hdim => exec_format_words (f := .ga1) hready hdim fun _ p hword =>
    (congrArg some hword).trans (pixelGa1_toNat s.cfg s.source p)

/-- Settles O56: the tile has the words of `pixelGa2_toNat`. -/
theorem convertGa2Words : Obligations.ConvertGa2Words :=
  fun s hready hdim => exec_format_words (f := .ga2) hready hdim fun _ p hword =>
    (congrArg some hword).trans (pixelGa2_toNat s.cfg s.source p)

/-- Settles O57: the tile has the words of `pixelGa4_toNat`. -/
theorem convertGa4Words : Obligations.ConvertGa4Words :=
  fun s hready hdim => exec_format_words (f := .ga4) hready hdim fun _ p hword =>
    hword.trans (pixelGa4_toNat s.source p)

/-- Settles O58: the tile has the words of `pixelGa8_toNat`. -/
theorem convertGa8Words : Obligations.ConvertGa8Words :=
  fun s hready hdim => exec_format_words (f := .ga8) hready hdim fun _ p hword =>
    hword.trans (pixelGa8_toNat s.source p)

end Sys2Proof.Machine
end

section
/-! PROOFS. What the tile of a conversion depends on, and the ranges of its pixel words (41_pixel_transcoder R143, R160). -/

namespace Sys2Proof.Machine

/-! ### The tile depends on the source bytes and two parameters only -/

/-- Equal pixels make an equal raster (R55). -/
theorem rasterBytes_congr {pixel pixel' : Nat → Half} (h : ∀ p, p < 4128 → pixel p = pixel' p) :
    rasterBytes pixel = rasterBytes pixel' :=
  List.flatMap_congr fun p hp => by rw [h p (List.mem_range.mp hp)]

theorem depthOf_cases (f : Format) : (0 < depthOf f ∧ depthOf f < 8) ∨ depthOf f = 8 ∨ depthOf f = 16 := by
  cases f <;> decide

/-- The samples of the tile's pixels read the format's source bytes only (R56, R57). -/
theorem sample_congr {f : Format} {src src' : Nat → Byte} {p k : Nat} (h : ∀ i, i < srcBytesOf f → src i = src' i)
    (hp : p < 4128) (hk : k < channelsOf f) :
    sample src (channelsOf f) (depthOf f) p k = sample src' (channelsOf f) (depthOf f) p k := by
  have hplace : p * channelsOf f + k < 4128 * channelsOf f := by
    have hrow : (p + 1) * channelsOf f ≤ 4128 * channelsOf f := Nat.mul_le_mul_right _ hp
    rw [Nat.succ_mul] at hrow
    omega
  have hbytes := srcBytesOf_eq f
  obtain ⟨hpos, hd⟩ | hd | hd := depthOf_cases f
  · have hbit : p * (channelsOf f * depthOf f) + k * depthOf f < 4128 * channelsOf f * depthOf f := by
      rw [← Nat.mul_assoc, ← Nat.add_mul]
      exact Nat.mul_lt_mul_of_pos_right hplace hpos
    rw [Nat.mul_assoc] at hbit
    rw [sample_sub _ _ _ _ _ hd, sample_sub _ _ _ _ _ hd, h _ (by omega)]
  · rw [hd] at hbytes ⊢
    rw [sample_byte, sample_byte, h _ (by omega)]
  · rw [hd] at hbytes ⊢
    rw [sample_half, sample_half, h _ (by omega), h _ (by omega)]

/-- A pixel is a function of its samples, the ramp and the two GA_LOW tables (R145 to R158). -/
theorem pixelOf_congr {f : Format} {cfg cfg' : Params} {src src' : Nat → Byte} {p : Nat} (hramp : cfg.ramp = cfg'.ramp)
    (hga1 : cfg.gaLow1 = cfg'.gaLow1) (hga2 : cfg.gaLow2 = cfg'.gaLow2)
    (h : ∀ k, k < channelsOf f → sample src (channelsOf f) (depthOf f) p k = sample src' (channelsOf f) (depthOf f) p k) :
    pixelOf f cfg src p = pixelOf f cfg' src' p := by
  cases f <;> simp only [channelsOf, depthOf] at h
  case rgb8 => simp only [pixelOf, pixelRgb8, h 0 (by decide), h 1 (by decide), h 2 (by decide)]
  case rgb16 => simp only [pixelOf, pixelRgb16, h 0 (by decide), h 1 (by decide), h 2 (by decide)]
  case rgba8 => simp only [pixelOf, pixelRgba8, h 0 (by decide), h 1 (by decide), h 2 (by decide), h 3 (by decide)]
  case rgba16 => simp only [pixelOf, pixelRgba16, h 0 (by decide), h 1 (by decide), h 2 (by decide), h 3 (by decide)]
  case g1 => simp only [pixelOf, pixelG1, h 0 (by decide)]
  case g2 => simp only [pixelOf, pixelG2, h 0 (by decide), hramp]
  case g4 => simp only [pixelOf, pixelG4, h 0 (by decide)]
  case g8 => simp only [pixelOf, pixelG8, h 0 (by decide)]
  case ga1 => simp only [pixelOf, pixelGa1, gaLowOne, h 0 (by decide), h 1 (by decide), hga1]
  case ga2 => simp only [pixelOf, pixelGa2, gaLowTwo, h 0 (by decide), h 1 (by decide), hga2]
  case ga4 => simp only [pixelOf, pixelGa4, h 0 (by decide), h 1 (by decide)]
  case ga8 => simp only [pixelOf, pixelGa8, h 0 (by decide), h 1 (by decide)]

/-- Settles O59: both tiles are rasters of pixels (`tile_of_exec_format`), and the pixels have equal samples
(`sample_congr`). -/
theorem conversionDependsOnItsSourceOnly : Obligations.ConversionDependsOnItsSourceOnly := by
  unfold Obligations.ConversionDependsOnItsSourceOnly
  intro f s s' t t' h hok h' hok' hramp hga1 hga2 hbytes
  have hsource (i : Nat) (hi : i < srcBytesOf f) : s.source i = s'.source i := BitVec.eq_of_toNat_eq (hbytes i hi)
  rw [tile_of_exec_format h hok, tile_of_exec_format h' hok',
    rasterBytes_congr fun p hp => pixelOf_congr hramp hga1 hga2 fun k hk => sample_congr hsource hp hk]

/-! ### The ranges of the pixel words -/

/-- The binary formats give one of the two binary words (R151, R155, R156). -/
theorem pixelOf_binary {f : Format} (hf : f ∈ [Format.g1, .ga1, .ga2]) (cfg : Params) (src : Nat → Byte) (p : Nat) :
    (pixelOf f cfg src p).toNat = 0 ∨ (pixelOf f cfg src p).toNat = 0xFFFF := by
  have hword : ∃ white, pixelOf f cfg src p = binaryWord white := by
    cases f
    case g1 => exact ⟨_, rfl⟩
    case ga1 => exact ⟨_, rfl⟩
    case ga2 => exact ⟨_, rfl⟩
    all_goals exact absurd hf (by decide)
  obtain ⟨white, hwhite⟩ := hword
  rw [hwhite, binaryWord_toNat]
  cases white
  · exact .inl rfl
  · exact .inr rfl

/-- G2 gives one of the four words of the ramp (R152). -/
theorem rampWord_mem (ramp : Ramp) (v : Nat) :
    (rampWord ramp v).toNat = ramp.black.toNat ∨ (rampWord ramp v).toNat = ramp.dark.toNat ∨
      (rampWord ramp v).toNat = ramp.mid.toNat ∨ (rampWord ramp v).toNat = ramp.whitish.toNat := by
  unfold rampWord
  split
  · exact .inl rfl
  · exact .inr (.inl rfl)
  · exact .inr (.inr (.inl rfl))
  · exact .inr (.inr (.inr rfl))

/-- The formats of computed greys pack one number as red and as blue, so the fields are equal (R135, R157, R158). -/
theorem pixelOf_red_eq_blue {f : Format} (hf : f ∈ [Format.g4, .g8, .ga4, .ga8]) (cfg : Params) (src : Nat → Byte) (p : Nat) :
    (pixelOf f cfg src p).toNat / 2048 = (pixelOf f cfg src p).toNat % 32 := by
  have hpacked : ∃ r g, pixelOf f cfg src p = pack565 r g r := by
    cases f
    case g4 => exact ⟨_, _, rfl⟩
    case g8 => exact ⟨_, _, rfl⟩
    case ga4 => exact ⟨_, _, rfl⟩
    case ga8 => exact ⟨_, _, rfl⟩
    all_goals exact absurd hf (by decide)
  obtain ⟨r, g, hrg⟩ := hpacked
  obtain ⟨hred, -, hblue⟩ := wordOfFields_fields (r := r % 32) (Nat.mod_lt g (by decide : 64 > 0))
    (Nat.mod_lt r (by decide : 32 > 0))
  rw [hrg, pack565_fields, hred, hblue]

/-- The top 6 bits of a channel of n + 6 bits. -/
theorem shiftRight_lt_sixtyFour {n x : Nat} (hx : x < 2 ^ (n + 6)) : x >>> n < 64 := by
  rw [Nat.shiftRight_eq_div_pow]
  exact Nat.div_lt_of_lt_mul (Nat.pow_add 2 n 6 ▸ hx)

/-- A sample of R56 widened to 8 bits (R157). -/
theorem widen4_sample_lt (src : Nat → Byte) (c p k : Nat) : widen4 (sample src c 4 p k) < 256 := by
  have hnibble : sample src c 4 p k < 16 := sample_lt src c 4 p k (.inl (by decide))
  rw [widen4_eq hnibble]
  omega

/-- The formats whose green is a 6-bit number with its low bit duplicated (R132, R133). -/
theorem pixelOf_greenFill {f : Format} (hf : f ∈ [Format.rgb8, .rgba8, .rgb16, .rgba16, .ga4, .ga8]) (cfg : Params)
    (src : Nat → Byte) (p : Nat) : ∃ r g b, g < 64 ∧ pixelOf f cfg src p = pack565 r (greenFill g) b := by
  have hbyte (c k : Nat) : sample src c 8 p k < 256 := sample_lt src c 8 p k (.inr (.inl rfl))
  have hhalf (c k : Nat) : sample src c 16 p k < 65536 := sample_lt src c 16 p k (.inr (.inr rfl))
  cases f
  case rgb8 => exact ⟨_, _, _, shiftRight_lt_sixtyFour (hbyte 3 1), rfl⟩
  case rgba8 => exact ⟨_, _, _, shiftRight_lt_sixtyFour (premul8_lt (hbyte 4 1) (hbyte 4 3)), rfl⟩
  case rgb16 => exact ⟨_, _, _, shiftRight_lt_sixtyFour (hhalf 3 1), rfl⟩
  case rgba16 => exact ⟨_, _, _, shiftRight_lt_sixtyFour (premul16_lt (hhalf 4 1) (hhalf 4 3)), rfl⟩
  case ga4 =>
    exact ⟨_, _, _, shiftRight_lt_sixtyFour (premul8_lt (widen4_sample_lt src 2 p 0) (widen4_sample_lt src 2 p 1)), rfl⟩
  case ga8 => exact ⟨_, _, _, shiftRight_lt_sixtyFour (premul8_lt (hbyte 2 0) (hbyte 2 1)), rfl⟩
  all_goals exact absurd hf (by decide)

/-- The low bit of a 6-bit green of at least 32 is 1 once it is duplicated (R132). -/
theorem greenFill_range {g : Nat} (hg : g < 64) : greenFill g < 64 ∧ (greenFill g < 32 ∨ greenFill g % 2 = 1) := by
  rw [greenFill_eq hg]
  split <;> omega

/-- The green field of these formats is below 32 or odd (R160). -/
theorem pixelOf_green {f : Format} (hf : f ∈ [Format.rgb8, .rgba8, .rgb16, .rgba16, .ga4, .ga8]) (cfg : Params)
    (src : Nat → Byte) (p : Nat) :
    (pixelOf f cfg src p).toNat / 32 % 64 < 32 ∨ (pixelOf f cfg src p).toNat / 32 % 2 = 1 := by
  obtain ⟨r, g, b, hg, hpixel⟩ := pixelOf_greenFill hf cfg src p
  obtain ⟨hlt, hrange⟩ := greenFill_range hg
  obtain ⟨-, hgreen, -⟩ := wordOfFields_fields (r := r % 32) hlt (Nat.mod_lt b (by decide : 32 > 0))
  rw [hpixel, pack565_fields, Nat.mod_eq_of_lt hlt]
  omega

/-- Settles O60: the words of the tile are the pixels of the format, and each kind of format has its range. -/
theorem outputRanges : Obligations.OutputRanges := by
  unfold Obligations.OutputRanges
  intro f s t h hok p w hp hw
  obtain rfl : w = (pixelOf f s.cfg s.source p).toNat := by rw [hw, tile_of_exec_format h hok, tileWord_raster _ _ hp]
  refine ⟨fun hf => pixelOf_binary hf _ _ _, ?_, fun hf => pixelOf_red_eq_blue hf _ _ _, fun hf => pixelOf_green hf _ _ _⟩
  rintro rfl
  exact rampWord_mem _ _

end Sys2Proof.Machine
end

section
/-! PROOFS. How an operation can end: with a next state or with a refusal of R186, never with a fault (60_exceptions R186,
R196). -/

namespace Sys2Proof.Machine

/-- The refusals of R186 that an operation can meet. The reserved command word, which R186 lists too, is met before an operation
starts (`issue_error`); a source buffer has no length of its own in HOST. -/
def Refusal.Listed (r : Refusal) : Prop :=
  (∃ q, r = .operandNotWritten q) ∨ r = .operandRangeWraps ∨ r = .tileNotValid ∨ ∃ v, r = .reservedFormatBits v

theorem Refusal.listed_operandNotWritten (q : Reg) : (Refusal.operandNotWritten q).Listed := .inl ⟨q, rfl⟩

theorem Refusal.listed_operandRangeWraps : Refusal.operandRangeWraps.Listed := .inr (.inl rfl)

theorem Refusal.listed_tileNotValid : Refusal.tileNotValid.Listed := .inr (.inr (.inl rfl))

theorem Refusal.listed_reservedFormatBits (v : Word) : (Refusal.reservedFormatBits v).Listed := .inr (.inr (.inr ⟨v, rfl⟩))

/-- The outcome has a next state or is a refusal of R186. -/
def CompletesOrRefuses (o : Host.Outcome State Fault Refusal) : Prop :=
  (∃ t, o = .next t) ∨ ∃ r, r.Listed ∧ o = .refused r

theorem completesOrRefuses_next (t : State) : CompletesOrRefuses (.next t) := .inl ⟨t, rfl⟩

theorem completesOrRefuses_refused {r : Refusal} (h : r.Listed) : CompletesOrRefuses (.refused r) := .inr ⟨r, h, rfl⟩

/-- An operation whose last precondition is tested completes where it holds and is refused where it does not. -/
theorem completesOrRefuses_ite {c : Prop} [Decidable c] {r : Refusal} (h : r.Listed) (t : State) :
    CompletesOrRefuses (if c then .next t else .refused r) := by
  split
  · exact completesOrRefuses_next t
  · exact completesOrRefuses_refused h

theorem CompletesOrRefuses.ne_fault {o : Host.Outcome State Fault Refusal} (h : CompletesOrRefuses o) (f : Fault) :
    o ≠ .fault f := by
  obtain ⟨t, rfl⟩ | ⟨r, -, rfl⟩ := h <;> nofun

theorem CompletesOrRefuses.listed {o : Host.Outcome State Fault Refusal} (h : CompletesOrRefuses o) {r : Refusal}
    (hr : o = .refused r) : r.Listed := by
  obtain ⟨t, rfl⟩ | ⟨q, hq, rfl⟩ := h
  · cases hr
  · cases hr
    exact hq

/-- The errors of the body of PXT.CONVERT are next states (R190); its one refusal is the range (R188). -/
theorem convertImage_completesOrRefuses (f : Option Format) (s : State) : CompletesOrRefuses (convertImage f s) := by
  obtain ⟨g, -, -, -, hc⟩ | ⟨-, -, hc⟩ | ⟨-, -, hc⟩ | ⟨g, -, -, hc⟩ := convertImage_cases f s
  case inr.inr.inr =>
    rw [hc]
    exact completesOrRefuses_refused Refusal.listed_operandRangeWraps
  all_goals exact .inl ⟨_, hc⟩

theorem convertAs_completesOrRefuses (f : Format) (s : State) : CompletesOrRefuses (convertAs f s) := by
  unfold convertAs
  split
  · exact completesOrRefuses_refused (Refusal.listed_operandNotWritten _)
  · exact convertImage_completesOrRefuses (some f) s

/-- Each operation tests its preconditions in turn, and each test that fails is a refusal of R186. -/
theorem exec_completesOrRefuses (i : Instr) (s : State) : CompletesOrRefuses (exec i s) := by
  cases i
  case blkReset => exact completesOrRefuses_next _
  case csaEmit => exact completesOrRefuses_next _
  case csaRead => exact completesOrRefuses_next _
  case csaWrtile => exact completesOrRefuses_ite Refusal.listed_tileNotValid _
  case csaWrite =>
    simp only [exec, execCsaWrite]
    split
    · exact completesOrRefuses_refused (Refusal.listed_operandNotWritten _)
    · exact completesOrRefuses_ite Refusal.listed_operandRangeWraps _
  case pxtLoadraw =>
    simp only [exec, execPxtLoadraw]
    split
    · exact completesOrRefuses_refused (Refusal.listed_operandNotWritten _)
    · exact completesOrRefuses_ite Refusal.listed_operandRangeWraps _
  case pxtConvert =>
    simp only [exec, execPxtConvert]
    split
    · exact completesOrRefuses_refused (Refusal.listed_operandNotWritten _)
    · split
      · exact convertImage_completesOrRefuses _ s
      · exact completesOrRefuses_refused (Refusal.listed_reservedFormatBits _)
  all_goals exact convertAs_completesOrRefuses _ s

/-- Settles O34: every operation completes or is refused for a reason of R186 (`exec_completesOrRefuses`). -/
theorem operationsStopOnlyAsTheSpecSays : Obligations.OperationsStopOnlyAsTheSpecSays := by
  unfold Obligations.OperationsStopOnlyAsTheSpecSays
  intro i s
  have hends := exec_completesOrRefuses i s
  exact ⟨hends.ne_fault, fun _ => hends.listed⟩

end Sys2Proof.Machine
end

section
/-! PROOFS. The idle block, and the two ways the host resets it (70_reset_and_hazards R210, R212). -/

namespace Sys2Proof

/-- IMG_FMT tells operations apart only under the command word of PXT.CONVERT (R87). -/
theorem decodeIssue_of_ne_pxtConvert {w : Word} {i : Instr} (h : decodeCommand w = .ok i) (hi : i ≠ .pxtConvert)
    (fmt : Option Word) : decodeIssue w fmt = .ok i := by
  unfold decodeIssue
  split
  · next hconvert =>
    obtain rfl : i = .pxtConvert := Except.ok.inj (h.symm.trans hconvert)
    exact absurd rfl hi
  · exact h

/-- The command word of BLK.RESET issues it whatever IMG_FMT holds (R81, R87). -/
theorem decodeIssue_one (fmt : Option Word) : decodeIssue 1 fmt = .ok .blkReset :=
  decodeIssue_of_ne_pxtConvert rfl (by decide) fmt

end Sys2Proof

namespace Sys2Proof.Machine

/-! ### The idle block -/

/-- With an empty list there is no access for a step to run. -/
theorem step_of_pending_nil {s : State} (h : s.pending = []) : step s = .next s := by
  simp only [step, fetchAccess, h]

/-- Settles O8: there is no access to run. -/
theorem idleBlockStaysAsItIs : Obligations.IdleBlockStaysAsItIs := by
  unfold Obligations.IdleBlockStaysAsItIs
  intro s hidle
  exact step_of_pending_nil hidle

/-! ### Hardware reset and BLK.RESET -/

/-- BLK.RESET has no precondition: it always resets the block (R104). -/
theorem exec_blkReset_eq (s : State) : exec .blkReset s = .next s.resetBlock := rfl

/-- The hardware reset line has the effect of BLK.RESET, with no word decoded (R210). -/
theorem runAccess_hardReset (s : State) : runAccess .hardReset s = exec .blkReset s := (exec_blkReset_eq s).symm

/-- A host write of 1 to CMD runs BLK.RESET (R81, R104). -/
theorem runAccess_writeBlkReset (s : State) : runAccess (.write 0 1) s = exec .blkReset s := by
  rw [runAccess_command, issue_ok (decodeIssue_one _)]

/-- Settles O11: either access, once taken off the list, runs BLK.RESET on the state that is left. -/
theorem hardwareResetIsBlkReset : Obligations.HardwareResetIsBlkReset := by
  unfold Obligations.HardwareResetIsBlkReset
  intro s rest
  constructor
  · rw [step_of_pending rfl, runAccess_hardReset]
  · rw [step_of_pending rfl, runAccess_writeBlkReset]

end Sys2Proof.Machine
end

section
/-! PROOFS. An opcode-table word placed where the next step takes its operation from (30_encoding R87; log 1 to 3). -/

namespace Sys2Proof

/-! ### A table word given without its place -/

/-- The place a table word is taken to stand in, with what it decodes to there: a command word, or a format's word (log 2). -/
theorem decodeTableWord_some {w : Nat} {i : Instr} (h : decodeTableWord 32 w = some i) :
    (portOfWord (BitVec.ofNat 32 w) = .command ∧ decodeCommand (BitVec.ofNat 32 w) = .ok i) ∨
      (portOfWord (BitVec.ofNat 32 w) = .imageFormat ∧ ∃ f : Format, BitVec.ofNat 32 w = f.word ∧ i = f.instr) := by
  have hdecode : decode { port := portOfWord (BitVec.ofNat 32 w), word := BitVec.ofNat 32 w } = .ok i := by
    simp only [decodeTableWord, Option.ite_none_right_eq_some] at h
    obtain ⟨-, h⟩ := h
    split at h
    · next hok => rw [hok, Option.some.inj h]
    · cases h
  cases hport : portOfWord (BitVec.ofNat 32 w) with
  | command =>
    rw [hport] at hdecode
    exact .inl ⟨rfl, hdecode⟩
  | imageFormat =>
    rw [hport] at hdecode
    obtain ⟨hr, f, hf, hi⟩ := decodeFormat_ok hdecode
    exact .inr ⟨rfl, f, eq_word_of_formatOf hr hf, hi⟩
  | readSelect =>
    unfold portOfWord at hport
    split at hport
    · cases hport
    · split at hport <;> cases hport

/-- The second level of the decoder: the row of the format whose word IMG_FMT holds, else PXT.CONVERT itself (R87). -/
theorem decodeIssue_of_pxtConvert {w : Word} (h : decodeCommand w = .ok .pxtConvert) (fmt : Option Word) :
    decodeIssue w fmt = .ok .pxtConvert ∨ ∃ f : Format, fmt = some f.word ∧ decodeIssue w fmt = .ok f.instr := by
  cases fmt with
  | none => exact .inl (by simp only [decodeIssue, h])
  | some v =>
    cases hv : decodeFormat v with
    | error e => exact .inl (by simp only [decodeIssue, h, hv])
    | ok i =>
      obtain ⟨hr, f, hf, rfl⟩ := decodeFormat_ok hv
      exact .inr ⟨f, by rw [eq_word_of_formatOf hr hf], by simp only [decodeIssue, h, hv]⟩

end Sys2Proof

namespace Sys2Proof.Machine

/-! ### Issuing a command word -/

theorem State.writtenFormat_eq_some {s : State} {v : Word} (h : s.writtenFormat = some v) :
    s.imgFmt = { value := v, written := true } := by
  obtain ⟨hwritten, hvalue⟩ := Option.ite_none_right_eq_some.mp h
  rw [← hwritten, ← Option.some.inj hvalue]

/-- A command word runs its own operation: where the second level finds a format's row, PXT.CONVERT finds the same format
(R87, R140). -/
theorem issue_of_decodeCommand {w : Word} {i : Instr} (h : decodeCommand w = .ok i) (s : State) : issue w s = exec i s := by
  by_cases hi : i = .pxtConvert
  · subst hi
    obtain hplain | ⟨f, hfmt, hrow⟩ := decodeIssue_of_pxtConvert h s.writtenFormat
    · exact issue_ok hplain
    · rw [issue_ok hrow, exec_format, exec_pxtConvert_format (State.writtenFormat_eq_some hfmt)]
  · exact issue_ok (decodeIssue_of_ne_pxtConvert h hi _)

/-! ### The step after a word is placed -/

/-- A placed command word is issued by the next step (log 1). -/
theorem step_placeTableWord_command {w : Word} (h : portOfWord w = .command) (s : State) :
    step (placeTableWord w s) = issue w s := by
  simp only [placeTableWord, h, Reg.number, step_of_cons, runAccess_command]

/-- With a format word placed, the next step issues PXT.CONVERT while IMG_FMT holds that word (log 3). -/
theorem step_placeTableWord_imageFormat {w : Word} (h : portOfWord w = .imageFormat) (s : State) :
    step (placeTableWord w s) =
      issue (encode .pxtConvert).word { s with imgFmt := { value := w, written := true } } := by
  simp only [placeTableWord, h, Reg.number]
  exact step_of_cons _ { s with imgFmt := { value := w, written := true } }

/-- Bits of `w` above 31 do not reach the word that is placed. -/
theorem State.withFetchWord_eq (s : State) (w : Nat) : s.withFetchWord 32 w = placeTableWord (BitVec.ofNat 32 w) s := by
  have hword : BitVec.ofNat 32 (w % 2 ^ 32) = BitVec.ofNat 32 w := BitVec.eq_of_toNat_eq (by simp)
  rw [State.withFetchWord, hword]

/-- Settles O7, by the place the word stands in: a command word runs its own operation; a format word is the row's encoding and
is in IMG_FMT when PXT.CONVERT runs. -/
theorem placedWordRunsNext : Obligations.PlacedWordRunsNext := by
  unfold Obligations.PlacedWordRunsNext
  intro s w i h
  rw [State.withFetchWord_eq]
  obtain ⟨hport, hcommand⟩ | ⟨hport, f, hword, rfl⟩ := decodeTableWord_some h
  · exact .inl (by rw [step_placeTableWord_command hport, issue_of_decodeCommand hcommand])
  · refine .inr ⟨by rw [encode_format, hword], ?_⟩
    rw [step_placeTableWord_imageFormat hport, issue_of_decodeCommand (i := .pxtConvert) rfl, hword,
      exec_pxtConvert_format rfl, exec_format]

end Sys2Proof.Machine
end

section
/-! PROOFS. The CRC step undone: each of the 8 rounds is invertible because bit 31 of POLY_R is 1; the check value
(40_checksum_accumulator R103). -/

namespace Sys2Proof.Machine

/-! ### A round loses nothing -/

/-- Bit 31 after a round tells whether the polynomial came in, so only the zero register gives zero. -/
theorem eq_zero_of_crcRound_eq_zero {poly x : Word} (hpoly : poly.getLsbD 31 = true) (h : crcRound poly x = 0) : x = 0 := by
  have hbit : ∀ i, (crcRound poly x).getLsbD i = false := fun i => by rw [h]; exact BitVec.getLsbD_zero
  cases hlow : x.getLsbD 0 with
  | true =>
    have htop := hbit 31
    rw [crcRound, hlow, if_pos rfl, BitVec.getLsbD_xor, hpoly] at htop
    simp at htop
  | false =>
    apply BitVec.eq_of_getLsbD_eq
    intro i _
    cases i with
    | zero => exact hlow
    | succ i =>
      have hnext := hbit i
      rw [crcRound, hlow, if_neg Bool.false_ne_true, BitVec.getLsbD_ushiftRight, Nat.add_comm] at hnext
      simpa using hnext

/-- A round is linear, so it is enough that only zero goes to zero. -/
theorem crcRound_injective {poly : Word} (hpoly : poly.getLsbD 31 = true) : Function.Injective (crcRound poly) := by
  intro a b hab
  have hzero : crcRound poly (a ^^^ b) = 0 := by rw [crcRound_xor, hab]; exact BitVec.xor_self
  exact BitVec.xor_eq_zero_iff.mp (eq_zero_of_crcRound_eq_zero hpoly hzero)

/-- The byte comes in by an xor, which loses nothing, and then come eight rounds (R101). -/
theorem crcStep_injective {poly : Word} (hpoly : poly.getLsbD 31 = true) (b : Byte) :
    Function.Injective fun r => crcStep poly r b := by
  intro r r' hr
  simp only [crcStep, crcRounds_eq_iterate] at hr
  exact (BitVec.xor_left_inj _).mp ((crcRound_injective hpoly).iterate 8 hr)

/-- Settles O13: an injective map of the 32-bit values, which are finitely many, to themselves is a bijection; the
check value by evaluation. -/
theorem crcStepIsABijectionWithTheCheckValue : Obligations.CrcStepIsABijectionWithTheCheckValue := by
  unfold Obligations.CrcStepIsABijectionWithTheCheckValue
  refine ⟨fun poly hpoly b => Finite.injective_iff_bijective.mp (crcStep_injective hpoly b), ?_⟩
  simp [crcUpdate, crcStep, crcRounds, crcRound]

end Sys2Proof.Machine
end
